-- ==== Sys2Proof/Word.lean ====
section
/-! DEFINITION. The widths of the machine's values (00_scope.md R7, R9 to R11): every value is an
unsigned number of a fixed width; nothing is signed and nothing is sign-extended (R9). -/

namespace Sys2Proof

/-- A byte: a general register, a timer, a memory byte, an 8-bit immediate (10_state.md R20, R33, R37). -/
abbrev Byte := BitVec 8

/-- A 16-bit value: the instruction word, `I`, `PC`, a stack entry (10_state.md R26, R27, R31). -/
abbrev Word := BitVec 16

/-- The 12-bit address operand `nnn` (30_encoding.md R71). -/
abbrev Addr := BitVec 12

/-- The 4-bit row count `n` of draw-sprite (30_encoding.md R71, R73). -/
abbrev Nibble := BitVec 4

/-- A register index, 0 to 15; all sixteen are legal everywhere (10_state.md R20, 30_encoding.md R73). -/
abbrev Reg := Fin 16

/-- Zero-extension of the 12-bit address to 16 bits (30_encoding.md R73). -/
def zext16 (nnn : Addr) : Word := nnn.setWidth 16

/-- Zero-extension of a byte to 16 bits (00_scope.md R9). -/
def byteToWord (b : Byte) : Word := b.setWidth 16

end Sys2Proof
end

