-- ==== Sys2Proof/Syntax.lean ====
section
/-! DEFINITION. The 34 operations, one constructor per row of spec/opcode_table.json
(30_encoding.md R75). An unrecognised word is no operation (R78): the decoder rejects it by name
and the Step runs the no-op of 40_step_cycle.md R94. -/

namespace Sys2Proof

/-- One operation with its operands. `x`, `y` are register indices, `kk` the 8-bit immediate, `nnn`
the 12-bit address, `n` the row count (30_encoding.md R71). Each shift keeps the `y` field its word
carries, although the operation ignores it (R73; log entry 8). -/
inductive Instr where
  /-- 00E0 clear-display (44_display.md R150) -/
  | clearDisplay
  /-- 00EE return (41_flow.md R101) -/
  | ret
  /-- 1nnn jump (R102) -/
  | jump (nnn : Addr)
  /-- 2nnn call (R103) -/
  | call (nnn : Addr)
  /-- 3xkk skip-if-equal (R105) -/
  | skipIfEqual (x : Reg) (kk : Byte)
  /-- 4xkk skip-if-not-equal (R106) -/
  | skipIfNotEqual (x : Reg) (kk : Byte)
  /-- 5xy0 skip-if-registers-equal (R107) -/
  | skipIfRegistersEqual (x y : Reg)
  /-- 6xkk set (42_alu.md R120) -/
  | set (x : Reg) (kk : Byte)
  /-- 7xkk add-immediate (R121) -/
  | addImmediate (x : Reg) (kk : Byte)
  /-- 8xy0 copy (R122) -/
  | copy (x y : Reg)
  /-- 8xy1 or (R123) -/
  | orRegs (x y : Reg)
  /-- 8xy2 and (R124) -/
  | andRegs (x y : Reg)
  /-- 8xy3 xor (R125) -/
  | xorRegs (x y : Reg)
  /-- 8xy4 add (R126) -/
  | addRegs (x y : Reg)
  /-- 8xy5 sub (R127) -/
  | subRegs (x y : Reg)
  /-- 8xy6 shift-right (R128) -/
  | shiftRight (x y : Reg)
  /-- 8xy7 sub-reverse (R129) -/
  | subReverse (x y : Reg)
  /-- 8xyE shift-left (R130) -/
  | shiftLeft (x y : Reg)
  /-- 9xy0 skip-if-registers-not-equal (41_flow.md R108) -/
  | skipIfRegistersNotEqual (x y : Reg)
  /-- Annn set-index (43_index_memory.md R140) -/
  | setIndex (nnn : Addr)
  /-- Bnnn jump-with-offset (41_flow.md R104) -/
  | jumpWithOffset (nnn : Addr)
  /-- Cxkk random-and (42_alu.md R131) -/
  | randomAnd (x : Reg) (kk : Byte)
  /-- Dxyn draw-sprite (44_display.md R151) -/
  | drawSprite (x y : Reg) (n : Nibble)
  /-- Ex9E skip-if-key-down (45_input_timers.md R160) -/
  | skipIfKeyDown (x : Reg)
  /-- ExA1 skip-if-key-up (R161) -/
  | skipIfKeyUp (x : Reg)
  /-- Fx07 get-delay-timer (R162) -/
  | getDelayTimer (x : Reg)
  /-- Fx0A wait-for-key (R163) -/
  | waitForKey (x : Reg)
  /-- Fx15 set-delay-timer (R164) -/
  | setDelayTimer (x : Reg)
  /-- Fx18 set-sound-timer (R165) -/
  | setSoundTimer (x : Reg)
  /-- Fx1E add-to-index (43_index_memory.md R141) -/
  | addToIndex (x : Reg)
  /-- Fx29 load-glyph-address (R142) -/
  | loadGlyphAddress (x : Reg)
  /-- Fx33 store-bcd (R143) -/
  | storeBcd (x : Reg)
  /-- Fx55 store-registers (R144) -/
  | storeRegisters (x : Reg)
  /-- Fx65 load-registers (R145) -/
  | loadRegisters (x : Reg)
  deriving DecidableEq, Repr

end Sys2Proof
end

