-- ==== Sys2Proof/Config.lean ====
section
/-! DEFINITION. What the spec leaves to the implementation (00_scope.md R8): the stack depth, the
glyph table and the random byte. -/

namespace Sys2Proof

/-- The parameter `STACK_DEPTH`: a positive integer, or unbounded, which is the document's own
behaviour (10_state.md R32). -/
inductive StackDepth where
  | unbounded
  | limit (depth : Nat)
  deriving DecidableEq, Repr

/-- The parameter `GLYPH[0..79]`: sixteen glyphs of five bytes (10_state.md R39, R41). -/
abbrev Glyph := Vector Byte 80

/-- The default glyph table of 10_state.md R41, a digit a line, top row first. PRESUMED: the spec
itself takes these bytes from general knowledge (log entry 3); unsafe for a claim that depends on
them. -/
def Config.glyph : Glyph := ⟨⟨
  [0xF0, 0x90, 0x90, 0x90, 0xF0] ++
  [0x20, 0x60, 0x20, 0x20, 0x70] ++
  [0xF0, 0x10, 0xF0, 0x80, 0xF0] ++
  [0xF0, 0x10, 0xF0, 0x10, 0xF0] ++
  [0x90, 0x90, 0xF0, 0x10, 0x10] ++
  [0xF0, 0x80, 0xF0, 0x10, 0xF0] ++
  [0xF0, 0x80, 0xF0, 0x90, 0xF0] ++
  [0xF0, 0x10, 0x20, 0x40, 0x40] ++
  [0xF0, 0x90, 0xF0, 0x90, 0xF0] ++
  [0xF0, 0x90, 0xF0, 0x10, 0xF0] ++
  [0xF0, 0x90, 0xF0, 0x90, 0x90] ++
  [0xE0, 0x90, 0xE0, 0x90, 0xE0] ++
  [0xF0, 0x80, 0x80, 0x80, 0xF0] ++
  [0xE0, 0x90, 0x90, 0x90, 0xE0] ++
  [0xF0, 0x80, 0xF0, 0x80, 0xF0] ++
  [0xF0, 0x80, 0xF0, 0x80, 0x80]⟩, rfl⟩

/-- What an address that the memory list does not name reads as, on every core: what memory holds at
`a` after reset with the default glyph table, its bytes at 0x000 to 0x04F and 0x00 elsewhere
(10_state.md R38, R47; log entry 7). A core of another table lists the bytes that differ. -/
def Config.resetByte (a : Nat) : Byte :=
  if h : a < 80 then Config.glyph[a] else 0

/-- The `k`-th random byte that nobody injected: a free value, under no law (42_alu.md R131,
47_host_interface.md R175; log entry 1). It has no body, so no proof can see what it is. -/
opaque Config.freeRnd : Nat → BitVec 8

end Sys2Proof
end

