-- ==== Sys2Proof/WellFormed.lean ====
section
/-! DEFINITION. Which terms are well formed. The operand types already bound every operand, so each
`Instr` the type admits is a legal instruction (30_encoding.md R73; log entry 20); the checks that
can fail are about the assembled form, the parameter `STACK_DEPTH` and the length of an image. -/

namespace Sys2Proof

/-- Every operand lies in the range of its field (30_encoding.md R71, R73). -/
def Instr.wellFormed : Instr → Bool
  | .clearDisplay | .ret => true
  | .jump nnn | .call nnn | .setIndex nnn | .jumpWithOffset nnn => decide (nnn.toNat ≤ 0xFFF)
  | .skipIfEqual x kk | .skipIfNotEqual x kk | .set x kk | .addImmediate x kk | .randomAnd x kk =>
    decide (x.val ≤ 15) && decide (kk.toNat ≤ 255)
  | .skipIfRegistersEqual x y | .skipIfRegistersNotEqual x y | .copy x y | .orRegs x y
  | .andRegs x y | .xorRegs x y | .addRegs x y | .subRegs x y | .shiftRight x y
  | .subReverse x y | .shiftLeft x y => decide (x.val ≤ 15) && decide (y.val ≤ 15)
  | .drawSprite x y n => decide (x.val ≤ 15) && decide (y.val ≤ 15) && decide (n.toNat ≤ 15)
  | .skipIfKeyDown x | .skipIfKeyUp x | .getDelayTimer x | .waitForKey x | .setDelayTimer x
  | .setSoundTimer x | .addToIndex x | .loadGlyphAddress x | .storeBcd x | .storeRegisters x
  | .loadRegisters x => decide (x.val ≤ 15)

/-- The instruction is one the spec's assembly can write: for the two shifts only `Vx` is written
and the `y` field is assembled as 0 (30_encoding.md R81). -/
def Instr.canonical : Instr → Bool
  | .shiftRight _ y | .shiftLeft _ y => decide (y = 0)
  | _ => true

/-- `STACK_DEPTH` is a positive integer or unbounded (10_state.md R32). -/
def StackDepth.wellFormed : StackDepth → Bool
  | .unbounded => true
  | .limit depth => decide (0 < depth)

/-- An image that Load copies whole: at most 3584 bytes (47_host_interface.md R171). -/
def imageFits (bytes : List Byte) : Bool := decide (bytes.length ≤ 3584)

end Sys2Proof
end

