-- ==== Sys2Proof/Decode.lean ====
section
/-! DEFINITION. The decoder (30_encoding.md R70 to R80) and, after it, the encoder (R83), the opcode
map as data (R75) and the operation names. The opcode numbers are the spec's
(R74, R75, decision D1; log entry 15); every bit that is no operand is tested (R77; log entry 9). -/

namespace Sys2Proof

/-! ## Fields (R71) -/

/-- `op`, bits 15:12. -/
def opField (w : Word) : Nibble := w.extractLsb' 12 4

/-- `x`, bits 11:8. -/
def xField (w : Word) : Reg := (w.extractLsb' 8 4).toFin

/-- `y`, bits 7:4. -/
def yField (w : Word) : Reg := (w.extractLsb' 4 4).toFin

/-- `n`, bits 3:0. -/
def nField (w : Word) : Nibble := w.extractLsb' 0 4

/-- `kk`, bits 7:0. -/
def kkField (w : Word) : Byte := w.extractLsb' 0 8

/-- `nnn`, bits 11:0. -/
def nnnField (w : Word) : Addr := w.extractLsb' 0 12

/-! ## Decoding (R76, R77) -/

/-- Why no operation was decoded: one name per group of unrecognised words (30_encoding.md R78), and
one for a byte sequence too short to hold a word. Not an error of the machine: R94 is a no-op. -/
inductive DecodeReject where
  /-- fewer than two bytes (R70) -/
  | truncated
  /-- `0nnn` other than 00E0 and 00EE (R78, R79) -/
  | group0
  /-- `5xyn` with `n` not 0 -/
  | group5
  /-- `8xyn` with `n` in 8 to D, or F -/
  | group8
  /-- `9xyn` with `n` not 0 -/
  | group9
  /-- `Exkk` with `kk` not 9E or A1 -/
  | groupE
  /-- `Fxkk` with an unlisted `kk` -/
  | groupF
  deriving DecidableEq, Repr

/-- The `8xyn` group, by `n`. -/
def decode8 (x y : Reg) (n : Nibble) : Except DecodeReject Instr :=
  match n with
  | 0x0#4 => .ok (.copy x y)
  | 0x1#4 => .ok (.orRegs x y)
  | 0x2#4 => .ok (.andRegs x y)
  | 0x3#4 => .ok (.xorRegs x y)
  | 0x4#4 => .ok (.addRegs x y)
  | 0x5#4 => .ok (.subRegs x y)
  | 0x6#4 => .ok (.shiftRight x y)
  | 0x7#4 => .ok (.subReverse x y)
  | 0xE#4 => .ok (.shiftLeft x y)
  | _ => .error .group8

/-- The `Exkk` group, by `kk`. -/
def decodeE (x : Reg) (kk : Byte) : Except DecodeReject Instr :=
  match kk with
  | 0x9E#8 => .ok (.skipIfKeyDown x)
  | 0xA1#8 => .ok (.skipIfKeyUp x)
  | _ => .error .groupE

/-- The `Fxkk` group, by `kk`. -/
def decodeF (x : Reg) (kk : Byte) : Except DecodeReject Instr :=
  match kk with
  | 0x07#8 => .ok (.getDelayTimer x)
  | 0x0A#8 => .ok (.waitForKey x)
  | 0x15#8 => .ok (.setDelayTimer x)
  | 0x18#8 => .ok (.setSoundTimer x)
  | 0x1E#8 => .ok (.addToIndex x)
  | 0x29#8 => .ok (.loadGlyphAddress x)
  | 0x33#8 => .ok (.storeBcd x)
  | 0x55#8 => .ok (.storeRegisters x)
  | 0x65#8 => .ok (.loadRegisters x)
  | _ => .error .groupF

/-- The operation an instruction word stands for (R75, R76), or the name of its unrecognised group
(R78). The last arm is `op = 0xF`, the sixteenth value of the leading nibble. -/
def decodeWord (w : Word) : Except DecodeReject Instr :=
  match opField w with
  | 0x0#4 =>
    if w = 0x00E0 then .ok .clearDisplay
    else if w = 0x00EE then .ok .ret
    else .error .group0
  | 0x1#4 => .ok (.jump (nnnField w))
  | 0x2#4 => .ok (.call (nnnField w))
  | 0x3#4 => .ok (.skipIfEqual (xField w) (kkField w))
  | 0x4#4 => .ok (.skipIfNotEqual (xField w) (kkField w))
  | 0x5#4 => if nField w = 0 then .ok (.skipIfRegistersEqual (xField w) (yField w)) else .error .group5
  | 0x6#4 => .ok (.set (xField w) (kkField w))
  | 0x7#4 => .ok (.addImmediate (xField w) (kkField w))
  | 0x8#4 => decode8 (xField w) (yField w) (nField w)
  | 0x9#4 => if nField w = 0 then .ok (.skipIfRegistersNotEqual (xField w) (yField w)) else .error .group9
  | 0xA#4 => .ok (.setIndex (nnnField w))
  | 0xB#4 => .ok (.jumpWithOffset (nnnField w))
  | 0xC#4 => .ok (.randomAnd (xField w) (kkField w))
  | 0xD#4 => .ok (.drawSprite (xField w) (yField w) (nField w))
  | 0xE#4 => decodeE (xField w) (kkField w)
  | _ => decodeF (xField w) (kkField w)

/-- Two bytes as they lie in memory, the more significant first (20_memory.md R50). -/
def wordOfBytes (hi lo : Byte) : Word := hi ++ lo

/-- Decode the instruction at the head of a byte sequence and give the rest; total on any bytes. -/
def decode : List Byte → Except DecodeReject (Instr × List Byte)
  | hi :: lo :: rest =>
    match decodeWord (wordOfBytes hi lo) with
    | .ok i => .ok (i, rest)
    | .error r => .error r
  | _ => .error .truncated

/-! ## Encoding (R83) -/

/-- A register index as its 4-bit field. -/
def regBits (x : Reg) : Nibble := BitVec.ofFin x

/-- The word of an operation: its fixed bits with the operands in their fields (R71, R75, R83). -/
def encode : Instr → Word
  | .clearDisplay => 0x00E0
  | .ret => 0x00EE
  | .jump nnn => 0x1#4 ++ nnn
  | .call nnn => 0x2#4 ++ nnn
  | .skipIfEqual x kk => 0x3#4 ++ regBits x ++ kk
  | .skipIfNotEqual x kk => 0x4#4 ++ regBits x ++ kk
  | .skipIfRegistersEqual x y => 0x5#4 ++ regBits x ++ regBits y ++ 0x0#4
  | .set x kk => 0x6#4 ++ regBits x ++ kk
  | .addImmediate x kk => 0x7#4 ++ regBits x ++ kk
  | .copy x y => 0x8#4 ++ regBits x ++ regBits y ++ 0x0#4
  | .orRegs x y => 0x8#4 ++ regBits x ++ regBits y ++ 0x1#4
  | .andRegs x y => 0x8#4 ++ regBits x ++ regBits y ++ 0x2#4
  | .xorRegs x y => 0x8#4 ++ regBits x ++ regBits y ++ 0x3#4
  | .addRegs x y => 0x8#4 ++ regBits x ++ regBits y ++ 0x4#4
  | .subRegs x y => 0x8#4 ++ regBits x ++ regBits y ++ 0x5#4
  | .shiftRight x y => 0x8#4 ++ regBits x ++ regBits y ++ 0x6#4
  | .subReverse x y => 0x8#4 ++ regBits x ++ regBits y ++ 0x7#4
  | .shiftLeft x y => 0x8#4 ++ regBits x ++ regBits y ++ 0xE#4
  | .skipIfRegistersNotEqual x y => 0x9#4 ++ regBits x ++ regBits y ++ 0x0#4
  | .setIndex nnn => 0xA#4 ++ nnn
  | .jumpWithOffset nnn => 0xB#4 ++ nnn
  | .randomAnd x kk => 0xC#4 ++ regBits x ++ kk
  | .drawSprite x y n => 0xD#4 ++ regBits x ++ regBits y ++ n
  | .skipIfKeyDown x => 0xE#4 ++ regBits x ++ 0x9E#8
  | .skipIfKeyUp x => 0xE#4 ++ regBits x ++ 0xA1#8
  | .getDelayTimer x => 0xF#4 ++ regBits x ++ 0x07#8
  | .waitForKey x => 0xF#4 ++ regBits x ++ 0x0A#8
  | .setDelayTimer x => 0xF#4 ++ regBits x ++ 0x15#8
  | .setSoundTimer x => 0xF#4 ++ regBits x ++ 0x18#8
  | .addToIndex x => 0xF#4 ++ regBits x ++ 0x1E#8
  | .loadGlyphAddress x => 0xF#4 ++ regBits x ++ 0x29#8
  | .storeBcd x => 0xF#4 ++ regBits x ++ 0x33#8
  | .storeRegisters x => 0xF#4 ++ regBits x ++ 0x55#8
  | .loadRegisters x => 0xF#4 ++ regBits x ++ 0x65#8

/-- The byte at the lower address: bits 15:8 (20_memory.md R50). -/
def highByte (w : Word) : Byte := w.extractLsb' 8 8

/-- The byte at the higher address: bits 7:0 (20_memory.md R50). -/
def lowByte (w : Word) : Byte := w.extractLsb' 0 8

/-- The two bytes of an operation as they lie in memory (R70, R83). -/
def encodeBytes (i : Instr) : List Byte := [highByte (encode i), lowByte (encode i)]

/-! ## The opcode map as data (R72, R75) -/

/-- One row of the opcode map: a word matches it when `w & mask = bits` (R72). -/
structure OpcodeRow where
  name : String
  bits : Word
  mask : Word
  deriving DecidableEq, Repr

/-- Rows 1 to 10 of R75. -/
def opcodeRowsA : List OpcodeRow :=
  [⟨"clear-display", 0x00E0, 0xFFFF⟩, ⟨"return", 0x00EE, 0xFFFF⟩, ⟨"jump", 0x1000, 0xF000⟩,
   ⟨"call", 0x2000, 0xF000⟩, ⟨"skip-if-equal", 0x3000, 0xF000⟩,
   ⟨"skip-if-not-equal", 0x4000, 0xF000⟩, ⟨"skip-if-registers-equal", 0x5000, 0xF00F⟩,
   ⟨"set", 0x6000, 0xF000⟩, ⟨"add-immediate", 0x7000, 0xF000⟩, ⟨"copy", 0x8000, 0xF00F⟩]

/-- Rows 11 to 23 of R75. -/
def opcodeRowsB : List OpcodeRow :=
  [⟨"or", 0x8001, 0xF00F⟩, ⟨"and", 0x8002, 0xF00F⟩, ⟨"xor", 0x8003, 0xF00F⟩,
   ⟨"add", 0x8004, 0xF00F⟩, ⟨"sub", 0x8005, 0xF00F⟩, ⟨"shift-right", 0x8006, 0xF00F⟩,
   ⟨"sub-reverse", 0x8007, 0xF00F⟩, ⟨"shift-left", 0x800E, 0xF00F⟩,
   ⟨"skip-if-registers-not-equal", 0x9000, 0xF00F⟩, ⟨"set-index", 0xA000, 0xF000⟩,
   ⟨"jump-with-offset", 0xB000, 0xF000⟩, ⟨"random-and", 0xC000, 0xF000⟩,
   ⟨"draw-sprite", 0xD000, 0xF000⟩]

/-- Rows 24 to 34 of R75. -/
def opcodeRowsC : List OpcodeRow :=
  [⟨"skip-if-key-down", 0xE09E, 0xF0FF⟩, ⟨"skip-if-key-up", 0xE0A1, 0xF0FF⟩,
   ⟨"get-delay-timer", 0xF007, 0xF0FF⟩, ⟨"wait-for-key", 0xF00A, 0xF0FF⟩,
   ⟨"set-delay-timer", 0xF015, 0xF0FF⟩, ⟨"set-sound-timer", 0xF018, 0xF0FF⟩,
   ⟨"add-to-index", 0xF01E, 0xF0FF⟩, ⟨"load-glyph-address", 0xF029, 0xF0FF⟩,
   ⟨"store-bcd", 0xF033, 0xF0FF⟩, ⟨"store-registers", 0xF055, 0xF0FF⟩,
   ⟨"load-registers", 0xF065, 0xF0FF⟩]

/-- The opcode map of R75, in its order. -/
def opcodeMap : List OpcodeRow := opcodeRowsA ++ opcodeRowsB ++ opcodeRowsC

/-- Whether a word matches a row (R72). -/
def OpcodeRow.matchesWord (r : OpcodeRow) (w : Word) : Bool := w &&& r.mask == r.bits

/-- The document's name of an operation, as spec/opcode_table.json spells it (R75). -/
def mnemonic : Instr → String
  | .clearDisplay => "clear-display"
  | .ret => "return"
  | .jump _ => "jump"
  | .call _ => "call"
  | .skipIfEqual _ _ => "skip-if-equal"
  | .skipIfNotEqual _ _ => "skip-if-not-equal"
  | .skipIfRegistersEqual _ _ => "skip-if-registers-equal"
  | .set _ _ => "set"
  | .addImmediate _ _ => "add-immediate"
  | .copy _ _ => "copy"
  | .orRegs _ _ => "or"
  | .andRegs _ _ => "and"
  | .xorRegs _ _ => "xor"
  | .addRegs _ _ => "add"
  | .subRegs _ _ => "sub"
  | .shiftRight _ _ => "shift-right"
  | .subReverse _ _ => "sub-reverse"
  | .shiftLeft _ _ => "shift-left"
  | .skipIfRegistersNotEqual _ _ => "skip-if-registers-not-equal"
  | .setIndex _ => "set-index"
  | .jumpWithOffset _ => "jump-with-offset"
  | .randomAnd _ _ => "random-and"
  | .drawSprite _ _ _ => "draw-sprite"
  | .skipIfKeyDown _ => "skip-if-key-down"
  | .skipIfKeyUp _ => "skip-if-key-up"
  | .getDelayTimer _ => "get-delay-timer"
  | .waitForKey _ => "wait-for-key"
  | .setDelayTimer _ => "set-delay-timer"
  | .setSoundTimer _ => "set-sound-timer"
  | .addToIndex _ => "add-to-index"
  | .loadGlyphAddress _ => "load-glyph-address"
  | .storeBcd _ => "store-bcd"
  | .storeRegisters _ => "store-registers"
  | .loadRegisters _ => "load-registers"

/-! ## The host's table words -/

/-- The instruction the decoder reads from a word numbered as spec/opcode_table.json numbers its
bits: the low `nbits` bits of `w`, laid out as two bytes, the more significant first. -/
def decodeTableWord (nbits w : Nat) : Option Instr :=
  let word := BitVec.ofNat 16 (w % 2 ^ nbits)
  match decode [highByte word, lowByte word] with
  | .ok (i, _) => some i
  | .error _ => none

end Sys2Proof
end

