-- ==== Sys2Proof/Machine/State.lean ====
section
/-! DEFINITION. The machine's state (10_state.md), as plain data, and its value after reset (R47). -/

namespace Sys2Proof.Machine

/-- Why a Step could stop the model with an `Outcome.fault`. There is no constructor: the four faults
of the spec latch `FAULT` and are NEXT states (60_exceptions.md R190; log entry 4), so nobody raises
one; this is safe, since a Step of this machine is total (40_step_cycle.md R97). -/
inductive Fault where
  deriving DecidableEq, Repr

/-- Why an instruction could be refused. -/
inductive Refusal where
  /-- Raised only by an arm of `exec` whose instruction has no meaning yet; none is left. Safe: the
  model stops where the hardware goes on. -/
  | notModelled (mnemonic : String)
  deriving DecidableEq, Repr

/-- The four causes of a fault (60_exceptions.md R186). -/
inductive FaultCause where
  /-- code 1: the two bytes of the instruction word are not both inside memory (R187) -/
  | fetchFault
  /-- code 2: an instruction would access memory above 0xFFF through `I` (R188) -/
  | dataAddressFault
  /-- code 3: a call on a full stack (R189) -/
  | stackOverflowFault
  /-- code 4: a key index or glyph digit above 15 (R191) -/
  | operandRangeFault
  deriving DecidableEq, Repr

/-- The fault record: cause, `pc0` of the faulting Step, and the cause's information (R186). -/
structure FaultRecord where
  cause : FaultCause
  pc : Word
  info : Word
  deriving DecidableEq, Repr

/-- The display buffer `FB[r][c]`: 32 rows of 64 pixels, `true` for on (10_state.md R34). -/
abbrev Display := Vector (Vector Bool 64) 32

/-- Memory as the list of the bytes that differ from the default reset contents, addresses rising
(log entry 7). -/
abbrev Memory := List Host.Cell

/-- Everything the spec gives the machine (10_state.md section 1, R48), and after it the model's own
fields: the two parameters `STACK_DEPTH` and `GLYPH` (R45) and the random input. -/
structure State where
  /-- `V[0]` to `V[15]`; `V[15]` is `VF` (R20, R23) -/
  v : Vector Byte 16
  /-- `I` (R26) -/
  index : Word
  /-- `PC` (R27, R28) -/
  pc : Word
  /-- `S`, the newest entry first (R31; log entry 19) -/
  stack : List Word
  /-- `DT` (R33) -/
  dt : Byte
  /-- `ST` (R33) -/
  st : Byte
  /-- `FB` (R34) -/
  fb : Display
  /-- `K`, the key snapshot, `true` for pressed (R36) -/
  keys : Vector Bool 16
  /-- `M` (R37) -/
  mem : Memory
  /-- `FAULT` (R42) -/
  fault : Option FaultRecord
  /-- the parameter `STACK_DEPTH` (R32); nothing writes it (log entry 2) -/
  stackDepth : StackDepth
  /-- the parameter `GLYPH` (R39, R41), which Reset copies to memory; nothing writes it
  (log entry 3) -/
  glyph : Glyph
  /-- random bytes the host has injected for the coming draws (47_host_interface.md R175;
  log entry 1) -/
  rndIn : List Byte
  /-- how many free random bytes have been drawn (log entry 1) -/
  rndCount : Nat
  deriving DecidableEq, Repr

/-- The display with every pixel off. -/
def blankDisplay : Display := Vector.replicate 32 (Vector.replicate 64 false)

/-- The state after Reset, memory at the default glyph table (10_state.md R47): everything zero but
`PC = 0x200` and the glyph bytes, which an empty memory list reads as. `STACK_DEPTH` unbounded is the
document's own behaviour (log entry 2). -/
def State.reset : State where
  v := Vector.replicate 16 0
  index := 0
  pc := 0x200
  stack := []
  dt := 0
  st := 0
  fb := blankDisplay
  keys := Vector.replicate 16 false
  mem := []
  fault := none
  stackDepth := .unbounded
  glyph := Config.glyph
  rndIn := []
  rndCount := 0

end Sys2Proof.Machine
end

