-- ==== Sys2Proof/Machine/Ops.lean ====
section
/-! DEFINITION. The named operations over registers, stack, memory, timers and the fault latch that
the meanings share. Every read and write of a register, a memory byte or the latch goes through one
of these. -/

namespace Sys2Proof.Machine

/-- What a Step, or its dispatch phase, answers. -/
abbrev Answer := Host.Outcome State Fault Refusal

/-! ## Registers -/

/-- `V[x]` (10_state.md R20). -/
def State.getV (s : State) (x : Reg) : Byte := s.v[x.val]

/-- `V[x] <- b`. -/
def State.setV (s : State) (x : Reg) (b : Byte) : State := { s with v := s.v.set x.val b }

/-- `V[15] <- b`, the flag register (R23). -/
def State.setVF (s : State) (b : Byte) : State := s.setV 15 b

/-- `I <- a` (R26). -/
def State.setIndex (s : State) (a : Word) : State := { s with index := a }

/-- `PC <- a` (R27). -/
def State.setPc (s : State) (a : Word) : State := { s with pc := a }

/-- `PC <- PC + 2`: the fetch's advance, and a skip; modulo 65536 (R28, R30). -/
def State.advancePc (s : State) : State := s.setPc (s.pc + 2)

/-- `PC <- PC - 2`: wait-for-key's rewind (45_input_timers.md R163). -/
def State.rewindPc (s : State) : State := s.setPc (s.pc - 2)

/-- `DT <- b` (10_state.md R33). -/
def State.setDt (s : State) (b : Byte) : State := { s with dt := b }

/-- `ST <- b` (R33). -/
def State.setSt (s : State) (b : Byte) : State := { s with st := b }

/-- `FB <- f` (R34). -/
def State.setFb (s : State) (f : Display) : State := { s with fb := f }

/-- `K <- k`, all sixteen at once (R36, 47_host_interface.md R172). -/
def State.setKeys (s : State) (k : Vector Bool 16) : State := { s with keys := k }

/-- `M <- m` (10_state.md R37). -/
def State.setMem (s : State) (m : Memory) : State := { s with mem := m }

/-- `S <- l` (R31). -/
def State.setStack (s : State) (l : List Word) : State := { s with stack := l }

/-- Skip the next instruction word when the condition holds (41_flow.md R105). -/
def State.skipIf (s : State) (c : Bool) : State := if c then s.advancePc else s

/-- `V[k], V[k+1], ... <- bs`, ascending; there is no register above 15 (43_index_memory.md R145). -/
def State.setBlock (s : State) (k : Nat) : List Byte → State
  | [] => s
  | b :: bs => State.setBlock { s with v := s.v.setIfInBounds k b } (k + 1) bs

/-! ## Memory -/

/-- The byte at address `a` (20_memory.md R59): the listed one, else the default reset contents. -/
def Memory.read : Memory → Nat → Byte
  | [], a => Config.resetByte a
  | (b, w) :: rest, a => if b = a then w else Memory.read rest a

/-- `M[a] <- v`, keeping the list in its one canonical form. -/
def Memory.write : Memory → Nat → Byte → Memory
  | [], a, v => if v = Config.resetByte a then [] else [(a, v)]
  | (b, w) :: rest, a, v =>
    if a < b then
      if v = Config.resetByte a then (b, w) :: rest else (a, v) :: (b, w) :: rest
    else if a = b then
      if v = Config.resetByte a then rest else (a, v) :: rest
    else (b, w) :: Memory.write rest a v

/-- The listed addresses rise strictly from `lo`, lie in the 4096-byte space, and no entry equals
what its address reads as unlisted. -/
def Memory.wfFrom (lo : Nat) : Memory → Bool
  | [] => true
  | (a, v) :: rest =>
    decide (lo ≤ a) && decide (a ≤ 0xFFF) && decide (v ≠ Config.resetByte a) &&
      Memory.wfFrom (a + 1) rest

/-- The canonical form of memory (log entry 7). -/
def Memory.wf (m : Memory) : Bool := Memory.wfFrom 0 m

/-- The bytes at `a`, `a + 1`, ..., `n` of them (20_memory.md R51). -/
def Memory.readBlock (m : Memory) (a : Nat) : Nat → List Byte
  | 0 => []
  | n + 1 => Memory.read m a :: Memory.readBlock m (a + 1) n

/-- Store the bytes at `a`, `a + 1`, ..., ascending (20_memory.md R51). -/
def Memory.writeBlock (m : Memory) (a : Nat) : List Byte → Memory
  | [] => m
  | b :: bs => Memory.writeBlock (m.write a b) (a + 1) bs

/-- `M[a]` of a state. -/
def State.readByte (s : State) (a : Nat) : Byte := Memory.read s.mem a

/-- The instruction word at `PC`, the byte at the lower address in bits 15:8; none when its two bytes
are not both inside memory (40_step_cycle.md R91, 20_memory.md R50). -/
def fetchWord (s : State) : Option Word :=
  if s.pc.toNat > 0xFFE then none
  else some (s.readByte s.pc.toNat ++ s.readByte (s.pc.toNat + 1))

/-- Store two instruction bytes where the next Step fetches them, changing nothing else. -/
def placeAtPc (hi lo : Byte) (s : State) : State :=
  s.setMem (Memory.writeBlock s.mem s.pc.toNat [hi, lo])

/-! ## Faults (60_exceptions.md) -/

/-- The core is halted: `FAULT` is not none (40_step_cycle.md R90). -/
def State.halted (s : State) : Bool := s.fault.isSome

/-- Fault entry (R190): `FAULT <- (cause, pc0, info)` and `PC` back at `pc0`; nothing else changes,
since every check comes before the first write. -/
def raiseAt (pc0 : Word) (cause : FaultCause) (info : Word) (s : State) : State :=
  { s with pc := pc0, fault := some ⟨cause, pc0, info⟩ }

/-- A fault of the dispatch phase, where `PC` holds `pc1 = pc0 + 2` (R190, 10_state.md R28). -/
def raise (cause : FaultCause) (info : Word) (s : State) : State :=
  raiseAt (s.pc - 2) cause info s

/-- FetchFault, raised by the fetch itself with `pc0` as its information (R187). -/
def raiseFetch (s : State) : State := raiseAt s.pc .fetchFault s.pc s

/-- The lowest out-of-range address of a block based at `I`: `max(I, 0x1000)` (R186). -/
def dataFaultInfo (s : State) : Word := BitVec.ofNat 16 (max s.index.toNat 0x1000)

/-- The state of 10_state.md R47 for a given glyph table and `STACK_DEPTH`. -/
def State.resetWith (g : Glyph) (d : StackDepth) : State :=
  { State.reset with mem := Memory.writeBlock [] 0 g.toList, stackDepth := d, glyph := g }

/-- Reset (47_host_interface.md R170): the reset state of the core's own `GLYPH` and `STACK_DEPTH`, the
same each time, and the only thing that clears `FAULT` (60_exceptions.md R193). The random source,
which is outside the core (70_reset_and_hazards.md R211), stays as it is (log entry 17). -/
def hostReset (s : State) : State :=
  { State.resetWith s.glyph s.stackDepth with rndIn := s.rndIn, rndCount := s.rndCount }

/-! ## Call stack (10_state.md R31, R32) -/

/-- The stack of `len` entries holds `STACK_DEPTH` of them; never, when unbounded. -/
def stackFull : StackDepth → Nat → Bool
  | .unbounded, _ => false
  | .limit depth, len => len == depth

/-- `push(S, a)`. -/
def State.pushReturn (s : State) (a : Word) : State := s.setStack (a :: s.stack)

/-! ## Timers (40_step_cycle.md R95) -/

/-- One count down, stopping at zero. -/
def countDown (b : Byte) : Byte := if b = 0 then 0 else b - 1

/-- The end of a Step that did not fault: each nonzero timer loses one. -/
def tickTimers (s : State) : State := { s with dt := countDown s.dt, st := countDown s.st }

/-- After dispatch: the timers count, unless dispatch raised a fault (R90, R95, R190). -/
def endStep : Answer → Answer
  | .next t => .next (if t.halted then t else tickTimers t)
  | .fault r => .fault r
  | .refused r => .refused r

/-! ## Random input (47_host_interface.md R175; log entry 1) -/

/-- The byte the next random-and draws: an injected one, else a free value. -/
def rndByte (s : State) : Byte :=
  match s.rndIn with
  | b :: _ => b
  | [] => Config.freeRnd s.rndCount

/-- The random input once that byte has been drawn. -/
def consumeRnd (s : State) : State :=
  match s.rndIn with
  | _ :: rest => { s with rndIn := rest }
  | [] => { s with rndCount := s.rndCount + 1 }

end Sys2Proof.Machine
end

