-- ==== Sys2Proof/Machine/Flags.lean ====
section
/-! DEFINITION. The 8-bit results and the flags (42_alu.md R132): operands become natural numbers, the
result is exact, and it is narrowed at the end. A flag is the full byte 0x00 or 0x01 (10_state.md
R24). -/

namespace Sys2Proof.Machine

/-- A condition as the byte `VF` holds. -/
def flag (c : Bool) : Byte := if c then 1 else 0

/-- `(a + b) mod 256` (R126). -/
def addResult (a b : Byte) : Byte := BitVec.ofNat 8 (a.toNat + b.toNat)

/-- 1 if the 9-bit sum exceeded 255 (R126). -/
def addFlag (a b : Byte) : Byte := flag (decide (a.toNat + b.toNat > 255))

/-- `(a - b) mod 256`, as `(a + 256 - b) mod 256` (R127). -/
def subResult (a b : Byte) : Byte := BitVec.ofNat 8 (a.toNat + 256 - b.toNat)

/-- 1 if `a > b`, strictly; equal operands give 0 (R127, 90_conflicts.md C7). -/
def subFlag (a b : Byte) : Byte := flag (decide (a.toNat > b.toNat))

/-- `a >> 1` (R128). -/
def shrResult (a : Byte) : Byte := BitVec.ofNat 8 (a.toNat / 2)

/-- Bit 0 of `a`, the bit shifted out (R128). -/
def shrFlag (a : Byte) : Byte := flag (decide (a.toNat % 2 = 1))

/-- `(a << 1) mod 256` (R130). -/
def shlResult (a : Byte) : Byte := BitVec.ofNat 8 (2 * a.toNat)

/-- Bit 7 of `a`, the bit shifted out (R130). -/
def shlFlag (a : Byte) : Byte := flag (decide (a.toNat ≥ 128))

/-- Result first, flag second: with `x = 15` the flag remains (add; R126, 10_state.md R25). -/
def resultThenFlag (x : Reg) (r f : Byte) (s : State) : State := (s.setV x r).setVF f

/-- Flag first, result second: with `x = 15` the result remains (sub, sub-reverse and the shifts;
R127 to R130, 10_state.md R25). -/
def flagThenResult (x : Reg) (r f : Byte) (s : State) : State := (s.setVF f).setV x r

end Sys2Proof.Machine
end

