-- ==== Sys2Proof/Machine/Operands.lean ====
section
/-! DEFINITION. The operand forms (30_encoding.md R73, 43_index_memory.md R146): a register, an
immediate (used as it is), an address zero-extended, the block based at `I`, the digit or key index
in a register, and the lowest pressed key. -/

namespace Sys2Proof.Machine

/-- The values of the two register operands, sampled before any write (00_scope.md R13). -/
def operands (x y : Reg) (s : State) : Byte × Byte := (s.getV x, s.getV y)

/-- The target of jump-with-offset: `zext16(nnn) + zext16(V[0])`, not masked (41_flow.md R104). -/
def offsetTarget (nnn : Addr) (s : State) : Word := zext16 nnn + byteToWord (s.getV 0)

/-- The address `I + k` as a natural number, with no wrap-around (20_memory.md R55). -/
def dataAddress (s : State) (k : Nat) : Nat := s.index.toNat + k

/-- Run `body` if the whole block `I .. I + last` lies in memory, else raise DataAddressFault before
any change (60_exceptions.md R188). -/
def withBlock (last : Nat) (s : State) (body : State → State) : Answer :=
  if dataAddress s last > 0xFFF then .next (raise .dataAddressFault (dataFaultInfo s) s)
  else .next (body s)

/-- Run `body` with the value of `V[x]` if that is a digit 0 to 15, else raise OperandRangeFault
(60_exceptions.md R191). -/
def withDigit (x : Reg) (s : State) (body : Reg → State → State) : Answer :=
  if h : (s.getV x).toNat < 16 then .next (body ⟨(s.getV x).toNat, h⟩ s)
  else .next (raise .operandRangeFault (byteToWord (s.getV x)) s)

/-- Whether key `k` is down in the snapshot (10_state.md R36). -/
def State.keyDown (s : State) (k : Reg) : Bool := s.keys[k.val]

/-- The sixteen key indices, ascending. -/
def keyIndices : List Reg := [0, 1, 2, 3, 4, 5, 6, 7, 8, 9, 10, 11, 12, 13, 14, 15]

/-- `min { i | K[i] = 1 }`, none when no key is down (45_input_timers.md R163). -/
def lowestKey (s : State) : Option Reg := keyIndices.find? s.keyDown

/-- A key index or digit as a register value. -/
def digitByte (d : Reg) : Byte := BitVec.ofNat 8 d.val

/-- The three decimal digits of a byte: hundreds, tens, ones (43_index_memory.md R143). -/
def bcdDigits (b : Byte) : List Byte :=
  [BitVec.ofNat 8 (b.toNat / 100), BitVec.ofNat 8 (b.toNat / 10 % 10), BitVec.ofNat 8 (b.toNat % 10)]

/-- The address of the glyph of a digit: `5 * d` (43_index_memory.md R142). -/
def glyphAddress (d : Reg) : Word := BitVec.ofNat 16 (5 * d.val)

/-- `V[0] .. V[x]` (10_state.md R22). -/
def registerBlock (x : Reg) (s : State) : List Byte := s.v.toList.take (x.val + 1)

end Sys2Proof.Machine
end

