-- ==== Sys2Proof/Machine/Alu.lean ====
section
/-! DEFINITION. Register and arithmetic operations (42_alu.md R120 to R133): they touch the general
registers only, and none can fault (R133). -/

namespace Sys2Proof.Machine

/-- set (R120). -/
def execSet (x : Reg) (kk : Byte) (s : State) : Answer := .next (s.setV x kk)

/-- add-immediate (R121): no flag. -/
def execAddImmediate (x : Reg) (kk : Byte) (s : State) : Answer :=
  .next (s.setV x (addResult (s.getV x) kk))

/-- copy (R122). -/
def execCopy (x y : Reg) (s : State) : Answer := .next (s.setV x (s.getV y))

/-- or (R123): no flag. -/
def execOr (x y : Reg) (s : State) : Answer :=
  let (a, b) := operands x y s
  .next (s.setV x (a ||| b))

/-- and (R124): no flag. -/
def execAnd (x y : Reg) (s : State) : Answer :=
  let (a, b) := operands x y s
  .next (s.setV x (a &&& b))

/-- xor (R125): no flag. -/
def execXor (x y : Reg) (s : State) : Answer :=
  let (a, b) := operands x y s
  .next (s.setV x (a ^^^ b))

/-- add (R126): the sum, then the carry flag. -/
def execAdd (x y : Reg) (s : State) : Answer :=
  let (a, b) := operands x y s
  .next (resultThenFlag x (addResult a b) (addFlag a b) s)

/-- sub (R127): the flag `V[x] > V[y]`, then the difference. -/
def execSub (x y : Reg) (s : State) : Answer :=
  let (a, b) := operands x y s
  .next (flagThenResult x (subResult a b) (subFlag a b) s)

/-- shift-right (R128): the flag, then the result; `V[y]` is neither read nor written. -/
def execShiftRight (x _y : Reg) (s : State) : Answer :=
  .next (flagThenResult x (shrResult (s.getV x)) (shrFlag (s.getV x)) s)

/-- sub-reverse (R129): the flag `V[y] > V[x]`, then `V[y] - V[x]` into `V[x]`. -/
def execSubReverse (x y : Reg) (s : State) : Answer :=
  let (a, b) := operands x y s
  .next (flagThenResult x (subResult b a) (subFlag b a) s)

/-- shift-left (R130): the flag, then the result; `V[y]` is neither read nor written. -/
def execShiftLeft (x _y : Reg) (s : State) : Answer :=
  .next (flagThenResult x (shlResult (s.getV x)) (shlFlag (s.getV x)) s)

/-- random-and (R131): the drawn byte AND the immediate; the old value plays no part. -/
def execRandomAnd (x : Reg) (kk : Byte) (s : State) : Answer :=
  .next ((consumeRnd s).setV x (rndByte s &&& kk))

end Sys2Proof.Machine
end

