-- ==== Sys2Proof/Machine/Display.lean ====
section
/-! DEFINITION. Display operations (44_display.md R150 to R152), written as the loops of the spec's
pseudocode. -/

namespace Sys2Proof.Machine

/-- The pixel at row `r`, column `c`; off outside the grid (10_state.md R34). -/
def pixel (fb : Display) (r c : Nat) : Bool := ((fb[r]?).bind fun row => row[c]?).getD false

/-- `FB[r][c] <- FB[r][c] ^ 1` (R151). -/
def togglePixel (fb : Display) (r c : Nat) : Display :=
  match fb[r]? with
  | some row => fb.setIfInBounds r (row.setIfInBounds c (!pixel fb r c))
  | none => fb

/-- The column of the sprite's left edge: `V[x] mod 64` (R151). -/
def spriteColumn (x : Reg) (s : State) : Nat := (s.getV x).toNat % 64

/-- The row of the sprite's top edge: `V[y] mod 32` (R151). -/
def spriteRow (y : Reg) (s : State) : Nat := (s.getV y).toNat % 32

/-- The sprite rows that fall on the grid: `min(n, 32 - y0)` (R151). -/
def spriteRows (y0 : Nat) (n : Nibble) : Nat := min n.toNat (32 - y0)

/-- The sprite columns that fall on the grid: `min(8, 64 - x0)` (R151). -/
def spriteCols (x0 : Nat) : Nat := min 8 (64 - x0)

/-- One pixel of a sprite row: bit `7 - c` of the byte toggles its pixel, and a pixel that was on
becoming off is a hit (R151). The accumulator is the display and the hit so far. -/
def drawPixel (b : Byte) (row x0 : Nat) (acc : Display × Bool) (c : Nat) : Display × Bool :=
  if b.getLsbD (7 - c) then
    (togglePixel acc.1 row (x0 + c), acc.2 || pixel acc.1 row (x0 + c))
  else acc

/-- One sprite row: the byte at `I + r`, its columns ascending (R151). -/
def drawRow (m : Memory) (base x0 y0 cols : Nat) (acc : Display × Bool) (r : Nat) : Display × Bool :=
  (List.range cols).foldl (drawPixel (Memory.read m (base + r)) (y0 + r) x0) acc

/-- The whole sprite, rows ascending (R151). -/
def drawRows (m : Memory) (base x0 y0 rows cols : Nat) (fb : Display) : Display × Bool :=
  (List.range rows).foldl (drawRow m base x0 y0 cols) (fb, false)

/-- The display and the collision flag after a draw at column `x0`, row `y0` (R151). -/
def drawnSprite (x y : Reg) (n : Nibble) (s : State) : Display × Bool :=
  let x0 := spriteColumn x s
  let y0 := spriteRow y s
  drawRows s.mem (dataAddress s 0) x0 y0 (spriteRows y0 n) (spriteCols x0) s.fb

/-- clear-display (R150): every pixel off; `VF` is not touched. -/
def execClearDisplay (s : State) : Answer := .next (s.setFb blankDisplay)

/-- Draw, then write `VF`, which is always written (R151). -/
def drawAndFlag (x y : Reg) (n : Nibble) (s : State) : State :=
  let drawn := drawnSprite x y n s
  (s.setFb drawn.1).setVF (flag drawn.2)

/-- draw-sprite (R151): DataAddressFault when a row that is fetched lies above 0xFFF; with no row
nothing is read or drawn and `VF` is cleared. -/
def execDrawSprite (x y : Reg) (n : Nibble) (s : State) : Answer :=
  match spriteRows (spriteRow y s) n with
  | 0 => .next (drawAndFlag x y n s)
  | rows + 1 => withBlock rows s (drawAndFlag x y n)

end Sys2Proof.Machine
end

