-- ==== Sys2Proof/Machine/Flow.lean ====
section
/-! DEFINITION. Control transfer (41_flow.md R100 to R108). On entry `PC` holds `pc1 = pc0 + 2`; no
target is masked or checked here, a target above 0xFFE is caught by the next fetch (R100). -/

namespace Sys2Proof.Machine

/-- return (R101): pop the newest entry into `PC`; on an empty stack, nothing. -/
def execReturn (s : State) : Answer :=
  match s.stack with
  | [] => .next s
  | a :: rest => .next ((s.setStack rest).setPc a)

/-- jump (R102). -/
def execJump (nnn : Addr) (s : State) : Answer := .next (s.setPc (zext16 nnn))

/-- call (R103): push the advanced `PC`, then jump; StackOverflowFault when the stack holds
`STACK_DEPTH` entries. -/
def execCall (nnn : Addr) (s : State) : Answer :=
  if stackFull s.stackDepth s.stack.length then .next (raise .stackOverflowFault (zext16 nnn) s)
  else .next ((s.pushReturn s.pc).setPc (zext16 nnn))

/-- jump-with-offset (R104): always `V[0]`, no mask. -/
def execJumpWithOffset (nnn : Addr) (s : State) : Answer := .next (s.setPc (offsetTarget nnn s))

/-- skip-if-equal (R105). -/
def execSkipIfEqual (x : Reg) (kk : Byte) (s : State) : Answer :=
  .next (s.skipIf (decide (s.getV x = kk)))

/-- skip-if-not-equal (R106). -/
def execSkipIfNotEqual (x : Reg) (kk : Byte) (s : State) : Answer :=
  .next (s.skipIf (decide (s.getV x ≠ kk)))

/-- skip-if-registers-equal (R107). -/
def execSkipIfRegistersEqual (x y : Reg) (s : State) : Answer :=
  .next (s.skipIf (decide (s.getV x = s.getV y)))

/-- skip-if-registers-not-equal (R108). -/
def execSkipIfRegistersNotEqual (x y : Reg) (s : State) : Answer :=
  .next (s.skipIf (decide (s.getV x ≠ s.getV y)))

end Sys2Proof.Machine
end

