-- ==== Sys2Proof/Machine/IndexMemory.lean ====
section
/-! DEFINITION. Index register and memory operations (43_index_memory.md R140 to R146). `I` is never
modified by an access, no flag is written, and a block is checked whole before the first write
(R146). -/

namespace Sys2Proof.Machine

/-- set-index (R140). -/
def execSetIndex (nnn : Addr) (s : State) : Answer := .next (s.setIndex (zext16 nnn))

/-- add-to-index (R141): modulo 65536, no flag. -/
def execAddToIndex (x : Reg) (s : State) : Answer :=
  .next (s.setIndex (s.index + byteToWord (s.getV x)))

/-- load-glyph-address (R142): `5 * V[x]`, OperandRangeFault above 15; reads no memory. -/
def execLoadGlyphAddress (x : Reg) (s : State) : Answer :=
  withDigit x s fun d t => t.setIndex (glyphAddress d)

/-- store-bcd (R143). -/
def execStoreBcd (x : Reg) (s : State) : Answer :=
  withBlock 2 s fun t =>
    t.setMem (Memory.writeBlock t.mem (dataAddress t 0) (bcdDigits (t.getV x)))

/-- store-registers (R144): `V[0] .. V[x]`, ascending. -/
def execStoreRegisters (x : Reg) (s : State) : Answer :=
  withBlock x.val s fun t =>
    t.setMem (Memory.writeBlock t.mem (dataAddress t 0) (registerBlock x t))

/-- load-registers (R145): `V[0] .. V[x]`, ascending. -/
def execLoadRegisters (x : Reg) (s : State) : Answer :=
  withBlock x.val s fun t =>
    t.setBlock 0 (Memory.readBlock t.mem (dataAddress t 0) (x.val + 1))

end Sys2Proof.Machine
end

