-- ==== Sys2Proof/Machine/InputTimers.lean ====
section
/-! DEFINITION. Input and timer operations (45_input_timers.md R160 to R166). The keys are levels of
the snapshot `K`; the timers count at the end of the Step, after these meanings (R95, R166). -/

namespace Sys2Proof.Machine

/-- skip-if-key-down (R160): the key is the value of `V[x]`. -/
def execSkipIfKeyDown (x : Reg) (s : State) : Answer :=
  withDigit x s fun k t => t.skipIf (t.keyDown k)

/-- skip-if-key-up (R161). -/
def execSkipIfKeyUp (x : Reg) (s : State) : Answer :=
  withDigit x s fun k t => t.skipIf (!t.keyDown k)

/-- get-delay-timer (R162): the value before this Step's decrement. -/
def execGetDelayTimer (x : Reg) (s : State) : Answer := .next (s.setV x s.dt)

/-- wait-for-key (R163): the lowest pressed key, or `PC` back at `pc0`. -/
def execWaitForKey (x : Reg) (s : State) : Answer :=
  match lowestKey s with
  | some k => .next (s.setV x (digitByte k))
  | none => .next s.rewindPc

/-- set-delay-timer (R164). -/
def execSetDelayTimer (x : Reg) (s : State) : Answer := .next (s.setDt (s.getV x))

/-- set-sound-timer (R165). -/
def execSetSoundTimer (x : Reg) (s : State) : Answer := .next (s.setSt (s.getV x))

end Sys2Proof.Machine
end

