-- ==== Sys2Proof/Machine/Step.lean ====
section
/-! DEFINITION. The Step (40_step_cycle.md R90): fetch, advance `PC`, decode, dispatch, count the
timers; and where the host places an instruction for the next Step. -/

namespace Sys2Proof.Machine

/-- Decode and dispatch (R92, R93); an unrecognised word does nothing (R94). -/
def dispatchWord (w : Word) (s : State) : Host.Outcome State Fault Refusal :=
  match decodeWord w with
  | .ok i => exec i s
  | .error _ => .next s

/-- One Step (R90). A halted core changes nothing; a fetch outside memory raises FetchFault; during
dispatch `PC` holds `pc0 + 2`. -/
def step (s : State) : Host.Outcome State Fault Refusal :=
  if s.halted then .next s
  else
    match fetchWord s with
    | none => .next (raiseFetch s)
    | some w => endStep (dispatchWord w s.advancePc)

/-- `s` with the instruction whose table bits are `w` stored where the next Step fetches
(log entry 6: it stands for the host's Load). -/
def State.withFetchWord (s : State) (nbits w : Nat) : State :=
  let word := BitVec.ofNat 16 (w % 2 ^ nbits)
  placeAtPc (highByte word) (lowByte word) s

end Sys2Proof.Machine
end

