-- ==== Sys2Proof/Machine/HostOps.lean ====
section
/-! DEFINITION. The host interface (47_host_interface.md R170 to R178): what the host does to the core
and reads of it, always between Steps (20_memory.md R60). -/

namespace Sys2Proof.Machine

/-- Load (R171): at most 3584 bytes from 0x200, the rest dropped; nothing else changes. -/
def hostLoad (bytes : List Byte) (s : State) : State :=
  s.setMem (Memory.writeBlock s.mem 0x200 (bytes.take 3584))

/-- SetInput (R172): the whole snapshot is replaced; nothing else changes. -/
def hostSetInput (keys : Vector Bool 16) (s : State) : State := s.setKeys keys

/-- Display output (R173): the whole pixel grid. -/
def displayOut (s : State) : Display := s.fb

/-- Audio output (R174): a level, true while the sound timer is nonzero. -/
def audioOut (s : State) : Bool := decide (s.st ≠ 0)

/-- Fault output (R176). -/
def faultOut (s : State) : Option FaultRecord := s.fault

/-- Step(rnd) (R175, R177): the Step with its one random byte; whether the Step used the byte or not,
it is gone afterwards. -/
def stepWith (rnd : Byte) (s : State) : Answer :=
  match step { s with rndIn := [rnd] } with
  | .next t => .next { t with rndIn := s.rndIn }
  | .fault r => .fault r
  | .refused r => .refused r

/-- What the host can do that changes the core (R178); the three reads change nothing. -/
inductive HostEvent where
  | reset
  | load (bytes : List Byte)
  | setInput (keys : Vector Bool 16)
  | step (rnd : Byte)
  deriving DecidableEq, Repr

/-- One host operation or Step (R178). -/
def applyEvent (e : HostEvent) (s : State) : Answer :=
  match e with
  | .reset => .next (hostReset s)
  | .load bytes => .next (hostLoad bytes s)
  | .setInput keys => .next (hostSetInput keys s)
  | .step rnd => stepWith rnd s

/-- The one global sequence of host operations and Steps, no two overlapping (20_memory.md R60). -/
def runEvents : List HostEvent → State → Answer
  | [], s => .next s
  | e :: es, s =>
    match applyEvent e s with
    | .next t => runEvents es t
    | .fault r => .fault r
    | .refused r => .refused r

end Sys2Proof.Machine
end

