-- ==== Sys2Proof/Machine/Ports.lean ====
section
/-! DEFINITION. The port-level rendering of the host interface (47_host_interface.md R179). No other
definition of the model depends on it. -/

namespace Sys2Proof.Machine

/-- `key_in` as the snapshot SetInput copies: bit `i` is key `i`. -/
def keysOfPort (keyIn : BitVec 16) : Vector Bool 16 := Vector.ofFn fun i : Fin 16 => keyIn.getLsbD i.val

/-- One `load_en` strobe: one byte of Load. The host presents addresses from 0x200 upward; for a lower
one the spec gives no move and this rendering writes nothing (log entry 21). -/
def portLoad (loadAddr : BitVec 12) (loadData : Byte) (s : State) : State :=
  if 0x200 ≤ loadAddr.toNat then s.setMem (Memory.write s.mem loadAddr.toNat loadData) else s

/-- `fb_out`: `FB`, row-major; bit `64 * r + c` is `FB[r][c]`. -/
def fbOut (s : State) (bit : Nat) : Bool := pixel s.fb (bit / 64) (bit % 64)

/-- `fault_out`: `FAULT != none`. -/
def faultOutPort (s : State) : Bool := s.fault.isSome

/-- The numeric code of a cause (60_exceptions.md R186). -/
def causeCode : FaultCause → BitVec 3
  | .fetchFault => 1
  | .dataAddressFault => 2
  | .stackOverflowFault => 3
  | .operandRangeFault => 4

/-- `fault_code`, 0 when there is no fault. -/
def faultCodePort (s : State) : BitVec 3 :=
  match s.fault with
  | some r => causeCode r.cause
  | none => 0

/-- `fault_pc`, 0 when there is no fault. -/
def faultPcPort (s : State) : Word :=
  match s.fault with
  | some r => r.pc
  | none => 0

/-- `fault_info`, 0 when there is no fault. -/
def faultInfoPort (s : State) : Word :=
  match s.fault with
  | some r => r.info
  | none => 0

/-- `busy`: true only during a Step; between Steps, where every state of the model stands, false. -/
def busyPort (_ : State) : Bool := false

end Sys2Proof.Machine
end

