-- ==== Sys2Proof/Safety.lean ====
section
/-! DEFINITION. The terms claims use: what may differ between two states, the invariant of the
machine, the spec's tables of faults and of net changes of `PC` and the timers, written apart from
the meanings, and the sprite as a set of pixels. -/

namespace Sys2Proof.Safety

open Sys2Proof.Machine

/-! ## Frames -/

/-- The pieces of state of 10_state.md section 1, with the two parameters and the random input. -/
inductive Part where
  | v | index | pc | stack | dt | st | fb | keys | mem | fault | stackDepth | glyph | rnd
  deriving DecidableEq, Repr

/-- A part has the same value in both states; registers and memory are compared through their reads:
every register, and every address. -/
def Part.same (s t : State) : Part → Prop
  | .v => ∀ k, t.getV k = s.getV k
  | .index => t.index = s.index
  | .pc => t.pc = s.pc
  | .stack => t.stack = s.stack
  | .dt => t.dt = s.dt
  | .st => t.st = s.st
  | .fb => t.fb = s.fb
  | .keys => t.keys = s.keys
  | .mem => ∀ a, t.readByte a = s.readByte a
  | .fault => t.fault = s.fault
  | .stackDepth => t.stackDepth = s.stackDepth
  | .glyph => t.glyph = s.glyph
  | .rnd => t.rndIn = s.rndIn ∧ t.rndCount = s.rndCount

/-- Every part but the named ones is the same in both states. -/
def SameBut (ps : List Part) (s t : State) : Prop := ∀ p, p ∉ ps → Part.same s t p

/-- Every register outside the list is the same in both states. -/
def RegsSameBut (xs : List Reg) (s t : State) : Prop := ∀ k, k ∉ xs → t.getV k = s.getV k

/-! ## The invariant -/

/-- The stack holds at most `STACK_DEPTH` entries (10_state.md R32). -/
def StackFits (d : StackDepth) (len : Nat) : Prop :=
  match d with
  | .unbounded => True
  | .limit depth => len ≤ depth

/-- A latched record is the one its cause records, in the state it left (60_exceptions.md R186,
R190): `pc` is the `PC` the core halted at, and `info` is the cause's. -/
def RecordFits (s : State) (r : FaultRecord) : Prop :=
  r.pc = s.pc ∧
  match r.cause with
  | .fetchFault => 0xFFE < r.pc.toNat ∧ r.info = r.pc
  | .dataAddressFault => r.pc.toNat ≤ 0xFFE ∧ r.info.toNat = max s.index.toNat 0x1000
  | .stackOverflowFault =>
    r.pc.toNat ≤ 0xFFE ∧ r.info.toNat ≤ 0xFFF ∧ s.stackDepth = .limit s.stack.length
  | .operandRangeFault => r.pc.toNat ≤ 0xFFE ∧ 15 < r.info.toNat ∧ r.info.toNat ≤ 255

/-- The invariant: memory is canonical, `PC` is at most 0x10FE and every stack entry at most 0x1000
(10_state.md R30), the stack fits its depth, the depth is positive (R32), and a latched fault fits
the state. -/
structure StateInv (s : State) : Prop where
  mem : Memory.wf s.mem = true
  pc : s.pc.toNat ≤ 0x10FE
  entries : ∀ a ∈ s.stack, a.toNat ≤ 0x1000
  depth : StackFits s.stackDepth s.stack.length
  positive : s.stackDepth.wellFormed = true
  latch : ∀ r, s.fault = some r → RecordFits s r

/-! ## The spec's tables, apart from the meanings -/

/-- The fault an operation raises in the state it is dispatched in, with its `info` (60_exceptions.md
R186, R188, R189, R191). -/
def faultOf (i : Instr) (s : State) : Option (FaultCause × Nat) :=
  match i with
  | .call nnn => if s.stackDepth = .limit s.stack.length then some (.stackOverflowFault, nnn.toNat) else none
  | .drawSprite _ y n =>
    let rows := min n.toNat (32 - (s.getV y).toNat % 32)
    if 0 < rows ∧ 0xFFF < s.index.toNat + (rows - 1) then some (.dataAddressFault, max s.index.toNat 0x1000) else none
  | .storeBcd _ => if 0xFFF < s.index.toNat + 2 then some (.dataAddressFault, max s.index.toNat 0x1000) else none
  | .storeRegisters x | .loadRegisters x =>
    if 0xFFF < s.index.toNat + x.val then some (.dataAddressFault, max s.index.toNat 0x1000) else none
  | .skipIfKeyDown x | .skipIfKeyUp x | .loadGlyphAddress x =>
    if 15 < (s.getV x).toNat then some (.operandRangeFault, (s.getV x).toNat) else none
  | _ => none

/-- Some key is down, and `k` is the lowest (45_input_timers.md R163). -/
def IsLowestKey (s : State) (k : Reg) : Prop :=
  s.keys[k.val] = true ∧ ∀ j : Reg, j < k → s.keys[j.val] = false

/-- No key is down. -/
def NoKeyDown (s : State) : Prop := ∀ k : Reg, s.keys[k.val] = false

/-- Whether a skip's condition holds (41_flow.md R105 to R108, 45_input_timers.md R160, R161). -/
def skipTaken (i : Instr) (s : State) : Prop :=
  match i with
  | .skipIfEqual x kk => s.getV x = kk
  | .skipIfNotEqual x kk => s.getV x ≠ kk
  | .skipIfRegistersEqual x y => s.getV x = s.getV y
  | .skipIfRegistersNotEqual x y => s.getV x ≠ s.getV y
  | .skipIfKeyDown x => ∃ k : Reg, k.val = (s.getV x).toNat ∧ s.keys[k.val] = true
  | .skipIfKeyUp x => ∃ k : Reg, k.val = (s.getV x).toNat ∧ s.keys[k.val] = false
  | _ => False

/-- `PC` after a Step that began at `s` with operation `i` and raised no fault (10_state.md R29). -/
def NetPc (i : Instr) (s : State) (pc : Word) : Prop :=
  match i with
  | .jump nnn | .call nnn => pc.toNat = nnn.toNat
  | .jumpWithOffset nnn => pc.toNat = nnn.toNat + (s.getV 0).toNat
  | .ret => match s.stack with
    | a :: _ => pc = a
    | [] => pc = s.pc + 2
  | .waitForKey _ => (NoKeyDown s → pc = s.pc) ∧ (¬ NoKeyDown s → pc = s.pc + 2)
  | i => (skipTaken i s → pc = s.pc + 4) ∧ (¬ skipTaken i s → pc = s.pc + 2)

/-- `DT` as dispatch leaves it (45_input_timers.md R164). -/
def dtDispatched (i : Instr) (s : State) : Byte :=
  match i with
  | .setDelayTimer x => s.getV x
  | _ => s.dt

/-- `ST` as dispatch leaves it (R165). -/
def stDispatched (i : Instr) (s : State) : Byte :=
  match i with
  | .setSoundTimer x => s.getV x
  | _ => s.st

/-- The parts an operation may write when it raises no fault, `PC` apart: the spec's Effect cells are
exhaustive (92_eei_decisions.md D9). -/
def partsWritten : Instr → List Part
  | .clearDisplay => [.fb]
  | .ret | .call _ => [.stack]
  | .set _ _ | .addImmediate _ _ | .copy _ _ | .orRegs _ _ | .andRegs _ _ | .xorRegs _ _
  | .addRegs _ _ | .subRegs _ _ | .shiftRight _ _ | .subReverse _ _ | .shiftLeft _ _
  | .getDelayTimer _ | .waitForKey _ | .loadRegisters _ => [.v]
  | .randomAnd _ _ => [.v, .rnd]
  | .drawSprite _ _ _ => [.v, .fb]
  | .setDelayTimer _ => [.dt]
  | .setSoundTimer _ => [.st]
  | .setIndex _ | .addToIndex _ | .loadGlyphAddress _ => [.index]
  | .storeBcd _ | .storeRegisters _ => [.mem]
  | .jump _ | .jumpWithOffset _ | .skipIfEqual _ _ | .skipIfNotEqual _ _
  | .skipIfRegistersEqual _ _ | .skipIfRegistersNotEqual _ _ | .skipIfKeyDown _ | .skipIfKeyUp _ => []

/-- The registers an operation may write: its destination, and `VF` for the six of 10_state.md R24. -/
def regsWritten : Instr → List Reg
  | .set x _ | .addImmediate x _ | .copy x _ | .orRegs x _ | .andRegs x _ | .xorRegs x _
  | .randomAnd x _ | .getDelayTimer x | .waitForKey x => [x]
  | .addRegs x _ | .subRegs x _ | .shiftRight x _ | .subReverse x _ | .shiftLeft x _ => [x, 15]
  | .drawSprite _ _ _ => [15]
  | .loadRegisters x => (List.finRange 16).filter (fun k => k ≤ x)
  | .clearDisplay | .ret | .jump _ | .call _ | .skipIfEqual _ _ | .skipIfNotEqual _ _
  | .skipIfRegistersEqual _ _ | .skipIfRegistersNotEqual _ _ | .setIndex _ | .jumpWithOffset _
  | .skipIfKeyDown _ | .skipIfKeyUp _ | .setDelayTimer _ | .setSoundTimer _ | .addToIndex _
  | .loadGlyphAddress _ | .storeBcd _ | .storeRegisters _ => []

/-- The unrecognised words, group by group as 30_encoding.md R78 lists them. -/
def Unrecognised (w : Word) : Prop :=
  let op := w.toNat / 0x1000
  let n := w.toNat % 0x10
  let kk := w.toNat % 0x100
  (op = 0x0 ∧ w.toNat ≠ 0x00E0 ∧ w.toNat ≠ 0x00EE) ∨
  (op = 0x5 ∧ n ≠ 0) ∨
  (op = 0x8 ∧ n ∈ [8, 9, 0xA, 0xB, 0xC, 0xD, 0xF]) ∨
  (op = 0x9 ∧ n ≠ 0) ∨
  (op = 0xE ∧ kk ∉ [0x9E, 0xA1]) ∨
  (op = 0xF ∧ kk ∉ [0x07, 0x0A, 0x15, 0x18, 0x1E, 0x29, 0x33, 0x55, 0x65])

/-! ## Steps and runs -/

/-- The core is not halted and the word at `PC` is in memory and is `w`, big-endian
(20_memory.md R50, 40_step_cycle.md R91). -/
def Fetches (s : State) (w : Word) : Prop :=
  s.fault = none ∧ s.pc.toNat ≤ 0xFFE ∧
    w.toNat = 256 * (s.readByte s.pc.toNat).toNat + (s.readByte (s.pc.toNat + 1)).toNat

/-- The next Step of `s` dispatches the operation `i`. -/
def Runs (s : State) (i : Instr) : Prop := ∃ w, Fetches s w ∧ decodeWord w = .ok i

/-- The dispatch phases of a sequence of operations, one after the other. -/
def execAll : List Instr → State → Answer
  | [], s => .next s
  | i :: is, s =>
    match exec i s with
    | .next t => execAll is t
    | .fault r => .fault r
    | .refused r => .refused r

/-! ## The sprite -/

/-- Whether the sprite of `Dxyn` has a 1 bit over the grid pixel `(r, c)`: the sprite's rows are the
`n` bytes from `I`, bit 7 of a byte its leftmost pixel, its corner at row `V[y] mod 32`, column
`V[x] mod 64` (44_display.md R151). -/
def spriteBit (s : State) (x y : Reg) (n : Nibble) (r c : Nat) : Bool :=
  let x0 := (s.getV x).toNat % 64
  let y0 := (s.getV y).toNat % 32
  decide (y0 ≤ r ∧ r < y0 + n.toNat ∧ x0 ≤ c ∧ c < x0 + 8) &&
    (s.readByte (s.index.toNat + (r - y0))).getLsbD (7 - (c - x0))

/-- Every sprite row that lands on the grid is read from inside memory (44_display.md R151). -/
def SpriteReadable (s : State) (y : Reg) (n : Nibble) : Prop :=
  min n.toNat (32 - (s.getV y).toNat % 32) = 0 ∨
    s.index.toNat + (min n.toNat (32 - (s.getV y).toNat % 32) - 1) ≤ 0xFFF

end Sys2Proof.Safety
end

