-- ==== Sys2Proof/Certificates/Slice0/Obligations.lean ====
section
/-! DEFINITION. The statements for the provers. Each docstring names the rule of spec/ it formalises;
where a clause rests on a decision the spec marks as its own, or on a choice of the model, it says
so. `exec` is the dispatch phase: on entry `PC` holds `pc1 = pc0 + 2`. -/

open Sys2Proof Sys2Proof.Machine Sys2Proof.Safety

/-! ## Encoding (30_encoding.md) -/

/-- R83: decoding the two bytes of any operation, whatever follows them, gives it back with every
operand. The opcode numbers are the spec's decision D1. -/
def Obligations.DecodeOfEncodeIsIdentity : Prop :=
  ∀ (i : Instr) (rest : List Byte), decode (encodeBytes i ++ rest) = .ok (i, rest)

/-- R76, R83: a word that decodes to an operation is the word that operation encodes to. -/
def Obligations.EncodeOfDecodeIsIdentity : Prop :=
  ∀ (w : Word) (i : Instr), decodeWord w = .ok i → encode i = w

/-- R76: the decoder follows the opcode map. A decoded word matches the row of its operation and no
other row; a word is rejected exactly when it matches no row. -/
def Obligations.DecoderFollowsOpcodeMap : Prop :=
  ∀ w : Word,
    (∀ i, decodeWord w = .ok i →
      ∃ r ∈ opcodeMap, r.matchesWord w = true ∧ r.name = mnemonic i ∧
        ∀ r' ∈ opcodeMap, r'.matchesWord w = true → r' = r) ∧
    ((∃ e, decodeWord w = .error e) ↔ ∀ r ∈ opcodeMap, r.matchesWord w = false)

/-- R77, R78 (decision D3): the rejected words are exactly the listed groups. -/
def Obligations.RejectedWordsAreTheListedGroups : Prop :=
  ∀ w : Word, (∃ e, decodeWord w = .error e) ↔ Unrecognised w

/-- R71, R73, R83: where the operands stand, as numbers: `x` at 256, `y` at 16, `n` at 1, `kk` and
`nnn` at the low end, above the fixed bits of the row. -/
def Obligations.OperandsStandInTheirFields : Prop :=
  (∀ nnn : Addr,
    (encode (.jump nnn)).toNat = 0x1000 + nnn.toNat ∧
    (encode (.call nnn)).toNat = 0x2000 + nnn.toNat ∧
    (encode (.setIndex nnn)).toNat = 0xA000 + nnn.toNat ∧
    (encode (.jumpWithOffset nnn)).toNat = 0xB000 + nnn.toNat) ∧
  (∀ (x : Reg) (kk : Byte),
    (encode (.skipIfEqual x kk)).toNat = 0x3000 + 256 * x.val + kk.toNat ∧
    (encode (.skipIfNotEqual x kk)).toNat = 0x4000 + 256 * x.val + kk.toNat ∧
    (encode (.set x kk)).toNat = 0x6000 + 256 * x.val + kk.toNat ∧
    (encode (.addImmediate x kk)).toNat = 0x7000 + 256 * x.val + kk.toNat ∧
    (encode (.randomAnd x kk)).toNat = 0xC000 + 256 * x.val + kk.toNat) ∧
  (∀ x y : Reg,
    (encode (.skipIfRegistersEqual x y)).toNat = 0x5000 + 256 * x.val + 16 * y.val ∧
    (encode (.copy x y)).toNat = 0x8000 + 256 * x.val + 16 * y.val ∧
    (encode (.orRegs x y)).toNat = 0x8001 + 256 * x.val + 16 * y.val ∧
    (encode (.andRegs x y)).toNat = 0x8002 + 256 * x.val + 16 * y.val ∧
    (encode (.xorRegs x y)).toNat = 0x8003 + 256 * x.val + 16 * y.val ∧
    (encode (.addRegs x y)).toNat = 0x8004 + 256 * x.val + 16 * y.val ∧
    (encode (.subRegs x y)).toNat = 0x8005 + 256 * x.val + 16 * y.val ∧
    (encode (.shiftRight x y)).toNat = 0x8006 + 256 * x.val + 16 * y.val ∧
    (encode (.subReverse x y)).toNat = 0x8007 + 256 * x.val + 16 * y.val ∧
    (encode (.shiftLeft x y)).toNat = 0x800E + 256 * x.val + 16 * y.val ∧
    (encode (.skipIfRegistersNotEqual x y)).toNat = 0x9000 + 256 * x.val + 16 * y.val) ∧
  (∀ (x y : Reg) (n : Nibble),
    (encode (.drawSprite x y n)).toNat = 0xD000 + 256 * x.val + 16 * y.val + n.toNat) ∧
  (∀ x : Reg,
    (encode (.skipIfKeyDown x)).toNat = 0xE09E + 256 * x.val ∧
    (encode (.skipIfKeyUp x)).toNat = 0xE0A1 + 256 * x.val ∧
    (encode (.getDelayTimer x)).toNat = 0xF007 + 256 * x.val ∧
    (encode (.waitForKey x)).toNat = 0xF00A + 256 * x.val ∧
    (encode (.setDelayTimer x)).toNat = 0xF015 + 256 * x.val ∧
    (encode (.setSoundTimer x)).toNat = 0xF018 + 256 * x.val ∧
    (encode (.addToIndex x)).toNat = 0xF01E + 256 * x.val ∧
    (encode (.loadGlyphAddress x)).toNat = 0xF029 + 256 * x.val ∧
    (encode (.storeBcd x)).toNat = 0xF033 + 256 * x.val ∧
    (encode (.storeRegisters x)).toNat = 0xF055 + 256 * x.val ∧
    (encode (.loadRegisters x)).toNat = 0xF065 + 256 * x.val)

/-- Words written out from R75 and the vectors X5 to X9: one or two a family. -/
def Obligations.SampleWordsDecode : Prop :=
  decode [0x23, 0x00] = .ok (.call 0x300, []) ∧
  decode [0x81, 0x24] = .ok (.addRegs 1 2, []) ∧
  decode [0x83, 0x0E] = .ok (.shiftLeft 3 0, []) ∧
  decode [0xA2, 0xF0] = .ok (.setIndex 0x2F0, []) ∧
  decode [0xFF, 0x65] = .ok (.loadRegisters 15, []) ∧
  decode [0xDA, 0xBF] = .ok (.drawSprite 10 11 15, []) ∧
  decode [0xF5, 0x0A] = .ok (.waitForKey 5, []) ∧
  decode [0x00, 0x00] = .error .group0

/-! ## The Step (40_step_cycle.md) -/

/-- R90 to R93, R95: when the bytes at `PC` decode to an operation, the Step is its dispatch with `PC`
advanced by 2, after which each nonzero timer loses one, unless dispatch latched a fault. -/
def Obligations.StepRunsTheDecodedInstruction : Prop :=
  ∀ (s t : State) (i : Instr),
    s.fault = none → s.pc.toNat ≤ 0xFFE →
    decode [s.readByte s.pc.toNat, s.readByte (s.pc.toNat + 1)] = .ok (i, []) →
    exec i { s with pc := s.pc + 2 } = .next t →
    (t.fault ≠ none → step s = .next t) ∧
    (t.fault = none → step s = .next { t with
      dt := if t.dt = 0 then 0 else t.dt - 1
      st := if t.st = 0 then 0 else t.st - 1 })

/-- R94: an unrecognised word advances `PC` by 2 and counts the timers, and does nothing else. -/
def Obligations.UnrecognisedWordIsNoOp : Prop :=
  ∀ (s : State) (w : Word), Fetches s w → Unrecognised w →
    step s = .next { s with
      pc := s.pc + 2
      dt := if s.dt = 0 then 0 else s.dt - 1
      st := if s.st = 0 then 0 else s.st - 1 }

/-- R90, R190 (decision D6): while `FAULT` is not none a Step, and any number of Steps, changes
nothing; a first fault is never overwritten. -/
def Obligations.HaltedCoreNeverChanges : Prop :=
  ∀ (s : State) (k : Nat), s.fault ≠ none → Host.Core.run core k s = .next s

/-- R91, R187 (decision D5): a fetch whose two bytes are not both inside memory latches FetchFault
with `pc0` as its information and changes nothing else. -/
def Obligations.FetchOutsideMemoryFaults : Prop :=
  ∀ s : State, s.fault = none → 0xFFE < s.pc.toNat →
    step s = .next { s with fault := some ⟨.fetchFault, s.pc, s.pc⟩ }

/-- R97: a Step is total; it answers a next state from every state, halted or not. -/
def Obligations.EveryStepAnswersANextState : Prop :=
  ∀ s : State, ∃ t, step s = .next t

/-- R95 (decision D20): in a Step that raises no fault each timer counts once from the value dispatch
left, stopping at zero; in a Step that raises one, neither moves. -/
def Obligations.TimersCountOncePerStep : Prop :=
  ∀ (s t : State), s.fault = none → step s = .next t →
    (t.fault ≠ none → t.dt = s.dt ∧ t.st = s.st) ∧
    (t.fault = none →
      (∀ i, Runs s i → t.dt.toNat = (dtDispatched i s).toNat - 1 ∧
        t.st.toNat = (stDispatched i s).toNat - 1) ∧
      ((∀ i, ¬ Runs s i) → t.dt.toNat = s.dt.toNat - 1 ∧ t.st.toNat = s.st.toNat - 1))

/-- R29: how each operation, and an unrecognised word, leaves `PC` over one whole Step that raises no
fault. -/
def Obligations.NetChangeOfPc : Prop :=
  ∀ (s t : State), s.fault = none → step s = .next t → t.fault = none →
    (∀ i, Runs s i → NetPc i s t.pc) ∧ ((∀ i, ¬ Runs s i) → t.pc = s.pc + 2)

/-- R62, R91: what the model's own placing of an instruction does: the very next Step fetches the
placed word, and no byte outside the two changes. -/
def Obligations.PlacedWordIsFetched : Prop :=
  ∀ (s : State) (w : Word), s.fault = none → s.pc.toNat ≤ 0xFFE → Memory.wf s.mem = true →
    Fetches (s.withFetchWord 16 w.toNat) w ∧
    (∀ a, a ≠ s.pc.toNat → a ≠ s.pc.toNat + 1 →
      (s.withFetchWord 16 w.toNat).readByte a = s.readByte a) ∧
    SameBut [.mem] s (s.withFetchWord 16 w.toNat)

/-! ## Faults (60_exceptions.md) -/

/-- R186, R188, R189, R191 (decisions D5, D6, D7, D11): an operation raises exactly the fault of the
spec's table, with `PC` back at `pc0` and nothing else changed; in every other case it completes
and leaves `FAULT` alone. -/
def Obligations.DispatchFaultsExactlyAsTabled : Prop :=
  ∀ (i : Instr) (s : State),
    (∀ c info, faultOf i s = some (c, info) →
      exec i s = .next { s with
        pc := s.pc - 2
        fault := some ⟨c, s.pc - 2, BitVec.ofNat 16 info⟩ }) ∧
    (faultOf i s = none → ∃ t, exec i s = .next t ∧ t.fault = s.fault)

/-- R190, R192 (decision D6): faults are precise. A Step that latches a fault changes `FAULT` alone,
and the record is FetchFault's or the one the spec's table gives the fetched operation. -/
def Obligations.FaultsArePrecise : Prop :=
  ∀ (s t : State), s.fault = none → step s = .next t → t.fault ≠ none →
    ∃ r : FaultRecord, t = { s with fault := some r } ∧ r.pc = s.pc ∧
      ((0xFFE < s.pc.toNat ∧ r.cause = .fetchFault ∧ r.info = s.pc) ∨
       (s.pc.toNat ≤ 0xFFE ∧ ∃ i, Runs s i ∧ faultOf i s = some (r.cause, r.info.toNat)))

/-! ## Invariants -/

/-- R30, R32, R186: every Step keeps the invariant, from every state that meets it. -/
def Obligations.StepKeepsInvariant : Prop :=
  ∀ s t : State, StateInv s → step s = .next t → StateInv t

/-- R47: the state after reset meets the invariant, for `State.reset` and for every glyph table and
legal depth. -/
def Obligations.ResetMeetsInvariant : Prop :=
  StateInv State.reset ∧
  ∀ (g : Glyph) (d : StackDepth), d.wellFormed = true → StateInv (State.resetWith g d)

/-- R60, R178: so does every sequence of host operations and Steps, from every state that meets it. -/
def Obligations.HostSequencesKeepInvariant : Prop :=
  ∀ (es : List HostEvent) (s t : State), StateInv s → runEvents es s = .next t → StateInv t

/-! ## Whole-machine frames -/

/-- R31, R34, R36, R53, R100, R133, R146, R152, R166 with decision D9: an operation writes no part of
the state but those its rule names (and `PC`, and `FAULT` when it faults); no operation writes the
key snapshot or either parameter. -/
def Obligations.OperationsWriteOnlyTheirParts : Prop :=
  ∀ (i : Instr) (s t : State), exec i s = .next t →
    SameBut (.pc :: .fault :: partsWritten i) s t

/-- R24 with decision D9: an operation writes no register but its destination, and `VF` only if it is
one of the six that write the flag. -/
def Obligations.OperationsWriteOnlyTheirRegisters : Prop :=
  ∀ (i : Instr) (s t : State), exec i s = .next t → RegsSameBut (regsWritten i) s t

/-- R175 (decision D14): a Step that does not execute random-and does not depend on the random byte. -/
def Obligations.OnlyRandomAndReadsTheRandomByte : Prop :=
  ∀ (s : State) (b c : Byte), (∀ x kk, ¬ Runs s (.randomAnd x kk)) → stepWith b s = stepWith c s

/-- R33, R46: no operation reads `ST`: two states that differ in `ST` alone give, under any operation,
next states that differ in `ST` at most. -/
def Obligations.NoOperationReadsTheSoundTimer : Prop :=
  ∀ (i : Instr) (s : State) (a : Byte), ∃ t u,
    exec i s = .next t ∧ exec i { s with st := a } = .next u ∧ { t with st := 0 } = { u with st := 0 }

/-! ## Memory (20_memory.md) -/

/-- R54, R59: a read gives the latest write to that byte, and a write changes exactly the byte
addressed. -/
def Obligations.MemoryReadAfterWrite : Prop :=
  ∀ (m : Memory) (a b : Nat) (v : Byte), Memory.wf m = true → a ≤ 0xFFF →
    Memory.wf (m.write a v) = true ∧
    Memory.read (m.write a v) b = if b = a then v else Memory.read m b

/-- The model's canonical form (log entry 7): equal contents are equal data. -/
def Obligations.MemoryFormIsCanonical : Prop :=
  ∀ m m' : Memory, Memory.wf m = true → Memory.wf m' = true →
    (∀ a, Memory.read m a = Memory.read m' a) → m = m'

/-! ## Control transfer (41_flow.md) -/

/-- R102: jump. -/
def Obligations.JumpSetsPc : Prop :=
  ∀ (nnn : Addr) (s : State), ∃ t,
    exec (.jump nnn) s = .next t ∧ t.pc.toNat = nnn.toNat ∧ SameBut [.pc] s t

/-- R104 (decision D4): jump-with-offset adds `V[0]`, unmasked. -/
def Obligations.JumpWithOffsetAddsV0 : Prop :=
  ∀ (nnn : Addr) (s : State), ∃ t,
    exec (.jumpWithOffset nnn) s = .next t ∧ t.pc.toNat = nnn.toNat + (s.getV 0).toNat ∧
      SameBut [.pc] s t

/-- R103 (decision D7): below the depth, call pushes the advanced `PC` and jumps. -/
def Obligations.CallPushesAndJumps : Prop :=
  ∀ (nnn : Addr) (s : State), s.stackDepth ≠ .limit s.stack.length → ∃ t,
    exec (.call nnn) s = .next t ∧ t.stack = s.pc :: s.stack ∧ t.pc.toNat = nnn.toNat ∧
      SameBut [.pc, .stack] s t

/-- R103, R189 (decisions D6, D7): a call at the depth raises StackOverflowFault with its target as
information, at any depth. -/
def Obligations.CallOnFullStackFaults : Prop :=
  ∀ (nnn : Addr) (s : State), s.stackDepth = .limit s.stack.length → ∃ t,
    exec (.call nnn) s = .next t ∧ SameBut [.pc, .fault] s t ∧ t.pc = s.pc - 2 ∧
      ∃ r, t.fault = some r ∧ r.cause = .stackOverflowFault ∧ r.pc = s.pc - 2 ∧
        r.info.toNat = nnn.toNat

/-- R101: return pops the newest entry into `PC` as it is; on an empty stack it does nothing. A popped
value is at most 0x1000 in a state that meets the invariant. -/
def Obligations.ReturnPopsOrDoesNothing : Prop :=
  (∀ (s : State) (a : Word) (rest : List Word), s.stack = a :: rest → ∃ t,
    exec .ret s = .next t ∧ t.pc = a ∧ t.stack = rest ∧ SameBut [.pc, .stack] s t ∧
      (StateInv s → t.pc.toNat ≤ 0x1000)) ∧
  (∀ s : State, s.stack = [] → exec .ret s = .next s)

/-- R109: calls nest and returns unwind newest first: any run of calls that fits the depth, followed
by as many returns, gives the starting state back. -/
def Obligations.NestedCallsUnwind : Prop :=
  ∀ (targets : List Addr) (s : State),
    StackFits s.stackDepth (s.stack.length + targets.length) →
    execAll (targets.map Instr.call ++ List.replicate targets.length Instr.ret) s = .next s

/-- R105 to R108: the four register skips add 2 to the advanced `PC` when their condition holds and
otherwise change nothing. -/
def Obligations.RegisterSkips : Prop :=
  ∀ (x y : Reg) (kk : Byte) (s : State),
    (∃ t, exec (.skipIfEqual x kk) s = .next t ∧ SameBut [.pc] s t ∧
      t.pc = if s.getV x = kk then s.pc + 2 else s.pc) ∧
    (∃ t, exec (.skipIfNotEqual x kk) s = .next t ∧ SameBut [.pc] s t ∧
      t.pc = if s.getV x = kk then s.pc else s.pc + 2) ∧
    (∃ t, exec (.skipIfRegistersEqual x y) s = .next t ∧ SameBut [.pc] s t ∧
      t.pc = if s.getV x = s.getV y then s.pc + 2 else s.pc) ∧
    (∃ t, exec (.skipIfRegistersNotEqual x y) s = .next t ∧ SameBut [.pc] s t ∧
      t.pc = if s.getV x = s.getV y then s.pc else s.pc + 2)

/-! ## Registers and arithmetic (42_alu.md) -/

/-- R120, R121, R122: set, add-immediate (modulo 256, no flag) and copy write their destination and
nothing else; `VF` changes only as the destination. -/
def Obligations.SetAddImmediateCopy : Prop :=
  ∀ (x y : Reg) (kk : Byte) (s : State),
    (∃ t, exec (.set x kk) s = .next t ∧ SameBut [.v] s t ∧ RegsSameBut [x] s t ∧ t.getV x = kk) ∧
    (∃ t, exec (.addImmediate x kk) s = .next t ∧ SameBut [.v] s t ∧ RegsSameBut [x] s t ∧
      (t.getV x).toNat = ((s.getV x).toNat + kk.toNat) % 256) ∧
    (∃ t, exec (.copy x y) s = .next t ∧ SameBut [.v] s t ∧ RegsSameBut [x] s t ∧
      t.getV x = s.getV y)

/-- R123, R124, R125 (decision D9: `VF` is left as it was): or, and, xor, bit by bit. -/
def Obligations.BitwiseOperations : Prop :=
  ∀ (x y : Reg) (s : State),
    (∃ t, exec (.orRegs x y) s = .next t ∧ SameBut [.v] s t ∧ RegsSameBut [x] s t ∧
      ∀ j, (t.getV x).getLsbD j = ((s.getV x).getLsbD j || (s.getV y).getLsbD j)) ∧
    (∃ t, exec (.andRegs x y) s = .next t ∧ SameBut [.v] s t ∧ RegsSameBut [x] s t ∧
      ∀ j, (t.getV x).getLsbD j = ((s.getV x).getLsbD j && (s.getV y).getLsbD j)) ∧
    (∃ t, exec (.xorRegs x y) s = .next t ∧ SameBut [.v] s t ∧ RegsSameBut [x] s t ∧
      ∀ j, (t.getV x).getLsbD j = ((s.getV x).getLsbD j ^^ (s.getV y).getLsbD j))

/-- R126 (decision D8 for `x = 15`): add gives the sum modulo 256, then the carry, 0 or 1, in `VF`;
with `x = 15` the carry remains. -/
def Obligations.AddWritesSumThenCarry : Prop :=
  ∀ (x y : Reg) (s : State), ∃ t, exec (.addRegs x y) s = .next t ∧ SameBut [.v] s t ∧
    ∀ k, (t.getV k).toNat =
      if k = 15 then (if 255 < (s.getV x).toNat + (s.getV y).toNat then 1 else 0)
      else if k = x then ((s.getV x).toNat + (s.getV y).toNat) % 256
      else (s.getV k).toNat

/-- R127, R129 (decision D8 for register 15): sub and sub-reverse give the difference modulo 256 in
`V[x]` and, unless `x = 15`, the strict comparison in `VF`. -/
def Obligations.SubtractsWriteFlagThenDifference : Prop :=
  ∀ (x y : Reg) (s : State),
    (∃ t, exec (.subRegs x y) s = .next t ∧ SameBut [.v] s t ∧
      ∀ k, (t.getV k).toNat =
        if k = x then ((s.getV x).toNat + 256 - (s.getV y).toNat) % 256
        else if k = 15 then (if (s.getV y).toNat < (s.getV x).toNat then 1 else 0)
        else (s.getV k).toNat) ∧
    (∃ t, exec (.subReverse x y) s = .next t ∧ SameBut [.v] s t ∧
      ∀ k, (t.getV k).toNat =
        if k = x then ((s.getV y).toNat + 256 - (s.getV x).toNat) % 256
        else if k = 15 then (if (s.getV x).toNat < (s.getV y).toNat then 1 else 0)
        else (s.getV k).toNat)

/-- R128, R130 (decision D8 for `x = 15`): the shifts move `V[x]` by one, whatever `y` is, and, unless
`x = 15`, put the bit shifted out in `VF`. -/
def Obligations.ShiftsWriteFlagThenResult : Prop :=
  ∀ (x y : Reg) (s : State),
    (∃ t, exec (.shiftRight x y) s = .next t ∧ SameBut [.v] s t ∧
      ∀ k, (t.getV k).toNat =
        if k = x then (s.getV x).toNat / 2
        else if k = 15 then (s.getV x).toNat % 2
        else (s.getV k).toNat) ∧
    (∃ t, exec (.shiftLeft x y) s = .next t ∧ SameBut [.v] s t ∧
      ∀ k, (t.getV k).toNat =
        if k = x then 2 * (s.getV x).toNat % 256
        else if k = 15 then (s.getV x).toNat / 128
        else (s.getV k).toNat)

/-- R131 (decision D14; log entry 1): random-and puts the drawn byte AND the immediate in `V[x]`. The
byte is the one the host injected, whichever that is, or else a free value; `rndIn` and `rndCount`
are the model's own fields. -/
def Obligations.RandomAndMasksTheDrawnByte : Prop :=
  ∀ (x : Reg) (kk : Byte) (s : State), ∃ t,
    exec (.randomAnd x kk) s = .next t ∧ SameBut [.v, .rnd] s t ∧ RegsSameBut [x] s t ∧
    (∀ j, kk.getLsbD j = false → (t.getV x).getLsbD j = false) ∧
    (∀ b rest, s.rndIn = b :: rest →
      t.getV x = b &&& kk ∧ t.rndIn = rest ∧ t.rndCount = s.rndCount) ∧
    (s.rndIn = [] →
      t.getV x = Config.freeRnd s.rndCount &&& kk ∧ t.rndIn = [] ∧ t.rndCount = s.rndCount + 1)

/-- R131, R175 (decision D14; log entry 1): over one Step with its random byte, random-and gives that
byte AND the immediate, and the model's own random fields come out as they went in. -/
def Obligations.RandomAndUsesTheByteOfTheStep : Prop :=
  ∀ (x : Reg) (kk b : Byte) (s : State), Runs s (.randomAnd x kk) → ∃ t,
    stepWith b s = .next t ∧ t.getV x = b &&& kk ∧ t.pc = s.pc + 2 ∧
      SameBut [.v, .pc, .dt, .st] s t ∧ RegsSameBut [x] s t

/-! ## Index register and memory operations (43_index_memory.md) -/

/-- R140: set-index. -/
def Obligations.SetIndexLoadsTheAddress : Prop :=
  ∀ (nnn : Addr) (s : State), ∃ t,
    exec (.setIndex nnn) s = .next t ∧ t.index.toNat = nnn.toNat ∧ SameBut [.index] s t

/-- R141 (decision D10): add-to-index wraps at 16 bits and writes no flag. -/
def Obligations.AddToIndexWraps : Prop :=
  ∀ (x : Reg) (s : State), ∃ t,
    exec (.addToIndex x) s = .next t ∧
      t.index.toNat = (s.index.toNat + (s.getV x).toNat) % 65536 ∧ SameBut [.index] s t

/-- R142 (decision D11 for a digit above 15): load-glyph-address. -/
def Obligations.LoadGlyphAddressIsFiveTimesDigit : Prop :=
  ∀ (x : Reg) (s : State),
    ((s.getV x).toNat ≤ 15 → ∃ t, exec (.loadGlyphAddress x) s = .next t ∧
      t.index.toNat = 5 * (s.getV x).toNat ∧ SameBut [.index] s t) ∧
    (15 < (s.getV x).toNat → ∃ t, exec (.loadGlyphAddress x) s = .next t ∧
      SameBut [.pc, .fault] s t ∧ t.pc = s.pc - 2 ∧
      ∃ r, t.fault = some r ∧ r.cause = .operandRangeFault ∧ r.pc = s.pc - 2 ∧
        r.info.toNat = (s.getV x).toNat)

/-- R143: store-bcd writes hundreds, tens and ones at `I`, `I+1`, `I+2` and nothing else, or, when
`I + 2` is above 0xFFF, raises DataAddressFault and writes nothing. Memory in canonical form is the
premise of the written bytes. -/
def Obligations.StoreBcdWritesThreeDigits : Prop :=
  ∀ (x : Reg) (s : State),
    (s.index.toNat + 2 ≤ 0xFFF → ∃ t, exec (.storeBcd x) s = .next t ∧ SameBut [.mem] s t ∧
      (Memory.wf s.mem = true →
        (t.readByte s.index.toNat).toNat = (s.getV x).toNat / 100 ∧
        (t.readByte (s.index.toNat + 1)).toNat = (s.getV x).toNat / 10 % 10 ∧
        (t.readByte (s.index.toNat + 2)).toNat = (s.getV x).toNat % 10) ∧
      ∀ a, a < dataAddress s 0 ∨ dataAddress s 2 < a → t.readByte a = s.readByte a) ∧
    (0xFFF < s.index.toNat + 2 → ∃ t, exec (.storeBcd x) s = .next t ∧
      SameBut [.pc, .fault] s t ∧ t.pc = s.pc - 2 ∧
      ∃ r, t.fault = some r ∧ r.cause = .dataAddressFault ∧ r.pc = s.pc - 2 ∧
        r.info.toNat = max s.index.toNat 0x1000)

/-- R144: store-registers copies `V[0] .. V[x]` to `I ..` and changes nothing else, or, when `I + x` is
above 0xFFF, raises DataAddressFault and writes nothing. -/
def Obligations.StoreRegistersCopiesTheBlock : Prop :=
  ∀ (x : Reg) (s : State),
    (s.index.toNat + x.val ≤ 0xFFF → ∃ t, exec (.storeRegisters x) s = .next t ∧
      SameBut [.mem] s t ∧
      (Memory.wf s.mem = true →
        ∀ k : Reg, k ≤ x → t.readByte (s.index.toNat + k.val) = s.getV k) ∧
      ∀ a, a < dataAddress s 0 ∨ dataAddress s x.val < a → t.readByte a = s.readByte a) ∧
    (0xFFF < s.index.toNat + x.val → ∃ t, exec (.storeRegisters x) s = .next t ∧
      SameBut [.pc, .fault] s t ∧ t.pc = s.pc - 2 ∧
      ∃ r, t.fault = some r ∧ r.cause = .dataAddressFault ∧ r.pc = s.pc - 2 ∧
        r.info.toNat = max s.index.toNat 0x1000)

/-- R145: load-registers copies `M[I] ..` into `V[0] .. V[x]` and changes nothing else, or, when
`I + x` is above 0xFFF, raises DataAddressFault and loads nothing. -/
def Obligations.LoadRegistersCopiesTheBlock : Prop :=
  ∀ (x : Reg) (s : State),
    (s.index.toNat + x.val ≤ 0xFFF → ∃ t, exec (.loadRegisters x) s = .next t ∧
      SameBut [.v] s t ∧
      ∀ k : Reg, t.getV k = if k ≤ x then s.readByte (s.index.toNat + k.val) else s.getV k) ∧
    (0xFFF < s.index.toNat + x.val → ∃ t, exec (.loadRegisters x) s = .next t ∧
      SameBut [.pc, .fault] s t ∧ t.pc = s.pc - 2 ∧
      ∃ r, t.fault = some r ∧ r.cause = .dataAddressFault ∧ r.pc = s.pc - 2 ∧
        r.info.toNat = max s.index.toNat 0x1000)

/-! ## Display (44_display.md) -/

/-- R150: clear-display turns every pixel off and touches nothing else. -/
def Obligations.ClearDisplayTurnsAllOff : Prop :=
  ∀ s : State, ∃ t, exec .clearDisplay s = .next t ∧ SameBut [.fb] s t ∧
    ∀ (r : Fin 32) (c : Fin 64), t.fb[r.val][c.val] = false

/-- R151 (decisions D8, D12, D13): draw-sprite, its fetched rows inside memory, changes each grid pixel
by exclusive OR with the sprite's bit over it, clipped at the edges; `VF` is 1 exactly when a pixel
that was on lies under a 1 bit, else 0; nothing else changes. -/
def Obligations.DrawSpriteXorsThePixels : Prop :=
  ∀ (x y : Reg) (n : Nibble) (s : State), SpriteReadable s y n → ∃ t,
    exec (.drawSprite x y n) s = .next t ∧ SameBut [.v, .fb] s t ∧ RegsSameBut [15] s t ∧
    (∀ (r : Fin 32) (c : Fin 64),
      t.fb[r.val][c.val] = (s.fb[r.val][c.val] ^^ spriteBit s x y n r.val c.val)) ∧
    ((∃ (r : Fin 32) (c : Fin 64), s.fb[r.val][c.val] = true ∧ spriteBit s x y n r.val c.val = true) →
      t.getV 15 = 1) ∧
    ((∀ (r : Fin 32) (c : Fin 64), s.fb[r.val][c.val] = true → spriteBit s x y n r.val c.val = false) →
      t.getV 15 = 0)

/-- R151, R188 (decisions D5, D6, D13): when a sprite row that lands on the grid lies above 0xFFF,
draw-sprite raises DataAddressFault, and no pixel and no register changes. -/
def Obligations.DrawSpriteOutsideMemoryFaults : Prop :=
  ∀ (x y : Reg) (n : Nibble) (s : State), ¬ SpriteReadable s y n → ∃ t,
    exec (.drawSprite x y n) s = .next t ∧ SameBut [.pc, .fault] s t ∧ t.pc = s.pc - 2 ∧
      ∃ r, t.fault = some r ∧ r.cause = .dataAddressFault ∧ r.pc = s.pc - 2 ∧
        r.info.toNat = max s.index.toNat 0x1000

/-- R154: drawing the same sprite twice at the same position gives the display back, and the second
draw reports 1 exactly when the sprite has a 1 bit on the grid over a pixel that was off before the
first. The position is the same after the first draw unless `VF` is a coordinate and changed it. -/
def Obligations.DrawingTwiceRestoresTheDisplay : Prop :=
  ∀ (x y : Reg) (n : Nibble) (s t : State), SpriteReadable s y n →
    exec (.drawSprite x y n) s = .next t →
    (t.getV x).toNat % 64 = (s.getV x).toNat % 64 → (t.getV y).toNat % 32 = (s.getV y).toNat % 32 →
    ∃ u, exec (.drawSprite x y n) t = .next u ∧ u.fb = s.fb ∧
      ((∃ (r : Fin 32) (c : Fin 64),
        s.fb[r.val][c.val] = false ∧ spriteBit s x y n r.val c.val = true) → u.getV 15 = 1) ∧
      ((∀ (r : Fin 32) (c : Fin 64),
        spriteBit s x y n r.val c.val = true → s.fb[r.val][c.val] = true) → u.getV 15 = 0)

/-! ## Input and timers (45_input_timers.md) -/

/-- R160, R161 (decision D11 for an index above 15): the key skips test the key that `V[x]` names; an
index above 15 raises OperandRangeFault. -/
def Obligations.KeySkips : Prop :=
  ∀ (x : Reg) (s : State),
    (∀ k : Reg, (s.getV x).toNat = k.val →
      (∃ t, exec (.skipIfKeyDown x) s = .next t ∧ SameBut [.pc] s t ∧
        t.pc = if s.keys[k.val] = true then s.pc + 2 else s.pc) ∧
      (∃ t, exec (.skipIfKeyUp x) s = .next t ∧ SameBut [.pc] s t ∧
        t.pc = if s.keys[k.val] = true then s.pc else s.pc + 2)) ∧
    (15 < (s.getV x).toNat → ∀ i ∈ [Instr.skipIfKeyDown x, Instr.skipIfKeyUp x], ∃ t,
      exec i s = .next t ∧ SameBut [.pc, .fault] s t ∧ t.pc = s.pc - 2 ∧
      ∃ r, t.fault = some r ∧ r.cause = .operandRangeFault ∧ r.pc = s.pc - 2 ∧
        r.info.toNat = (s.getV x).toNat)

/-- R163: wait-for-key takes the lowest pressed key, or, with none down, sets `PC` back by 2 and
changes no register; the whole Step of the stall changes nothing but the timers, which count. -/
def Obligations.WaitForKeyTakesLowestOrRewinds : Prop :=
  ∀ (x : Reg) (s : State),
    (∀ k : Reg, IsLowestKey s k → ∃ t, exec (.waitForKey x) s = .next t ∧ SameBut [.v] s t ∧
      RegsSameBut [x] s t ∧ (t.getV x).toNat = k.val) ∧
    (NoKeyDown s → ∃ t, exec (.waitForKey x) s = .next t ∧ SameBut [.pc] s t ∧ t.pc = s.pc - 2) ∧
    (Runs s (.waitForKey x) → NoKeyDown s → step s = .next { s with
      dt := if s.dt = 0 then 0 else s.dt - 1
      st := if s.st = 0 then 0 else s.st - 1 })

/-- R162: get-delay-timer reads `DT` before this Step's decrement: dispatch copies it, and over the
whole Step the register holds `v` and the timer one less, stopping at zero. -/
def Obligations.GetDelayTimerReadsBeforeTheCount : Prop :=
  ∀ (x : Reg) (s : State),
    (∃ t, exec (.getDelayTimer x) s = .next t ∧ SameBut [.v] s t ∧ RegsSameBut [x] s t ∧
      t.getV x = s.dt) ∧
    (Runs s (.getDelayTimer x) → ∃ t, step s = .next t ∧ t.getV x = s.dt ∧
      t.dt.toNat = s.dt.toNat - 1 ∧ RegsSameBut [x] s t ∧ SameBut [.v, .pc, .dt, .st] s t)

/-- R164, R165 (decision D20 for the count of the same Step): the timer writes, at dispatch and over
the whole Step. -/
def Obligations.TimerWritesCountInTheSameStep : Prop :=
  ∀ (x : Reg) (s : State),
    (∃ t, exec (.setDelayTimer x) s = .next t ∧ SameBut [.dt] s t ∧ t.dt = s.getV x) ∧
    (∃ t, exec (.setSoundTimer x) s = .next t ∧ SameBut [.st] s t ∧ t.st = s.getV x) ∧
    (Runs s (.setDelayTimer x) → ∃ t, step s = .next t ∧ t.dt.toNat = (s.getV x).toNat - 1 ∧
      SameBut [.pc, .dt, .st] s t) ∧
    (Runs s (.setSoundTimer x) → ∃ t, step s = .next t ∧ t.st.toNat = (s.getV x).toNat - 1 ∧
      SameBut [.pc, .dt, .st] s t ∧ (audioOut t = true ↔ 1 < (s.getV x).toNat))

/-! ## Host interface (47_host_interface.md) -/

/-- R47, R170 (decisions D15, D19): the reset state for every glyph table and depth; `State.reset` is
the one of the default glyphs (log entry 3) and the unbounded depth (log entry 2), and Reset gives,
from any state, the one of that core's own glyphs and depth, the random input aside (log entry 17). -/
def Obligations.ResetStateIsAsTabled : Prop :=
  (∀ (g : Glyph) (d : StackDepth),
    let s := State.resetWith g d
    (∀ k, s.getV k = 0) ∧ s.index = 0 ∧ s.pc = 0x200 ∧ s.stack = [] ∧ s.dt = 0 ∧ s.st = 0 ∧
    (∀ (r : Fin 32) (c : Fin 64), s.fb[r.val][c.val] = false) ∧ NoKeyDown s ∧
    (∀ a : Fin 80, s.readByte a.val = g[a.val]) ∧
    (∀ a, 80 ≤ a → s.readByte a = 0) ∧
    s.fault = none ∧ s.stackDepth = d ∧ s.glyph = g) ∧
  State.reset = State.resetWith Config.glyph .unbounded ∧
  ∀ s : State, SameBut [.rnd] (State.resetWith s.glyph s.stackDepth) (hostReset s) ∧
    SameBut [.v, .index, .pc, .stack, .dt, .st, .fb, .keys, .mem, .fault] s (hostReset s)

/-- R171 (decision D18): Load puts the bytes at 0x200 upward, drops those past 3584, and changes
nothing else, in a state whose memory is canonical. -/
def Obligations.LoadCopiesAndTruncates : Prop :=
  ∀ (bytes : List Byte) (s : State), Memory.wf s.mem = true →
    (∀ (i : Nat) (b : Byte), bytes[i]? = some b → i < 3584 →
      (hostLoad bytes s).readByte (0x200 + i) = b) ∧
    (∀ a, a < 0x200 ∨ 0x200 + bytes.length ≤ a ∨ 0xFFF < a →
      (hostLoad bytes s).readByte a = s.readByte a) ∧
    SameBut [.mem] s (hostLoad bytes s)

/-- R172, R179 (decisions D17, D24): SetInput replaces all sixteen flags and nothing else; bit `i` of
the port's word is key `i`. -/
def Obligations.SetInputReplacesTheSnapshot : Prop :=
  ∀ (keyIn : BitVec 16) (s : State),
    (∀ k : Reg, (hostSetInput (keysOfPort keyIn) s).keys[k.val] = keyIn.getLsbD k.val) ∧
    SameBut [.keys] s (hostSetInput (keysOfPort keyIn) s)

/-- R8, R170 (decisions D15, D19): a core of any glyph table and depth keeps both parameters through
every sequence of host operations and Steps, so that Reset always gives the one reset state of that
core back. That the random fields come back too is the model's `Step(rnd)` (log entry 1). -/
def Obligations.ResetGivesTheSameStateEachTime : Prop :=
  ∀ (es : List HostEvent) (g : Glyph) (d : StackDepth) (t : State),
    runEvents es (State.resetWith g d) = .next t →
      t.glyph = g ∧ t.stackDepth = d ∧ hostReset t = State.resetWith g d
end

