-- ==== Sys2Proof/Laws/Decode.lean ====
section
/-! SUPPORT. The fields of an assembled word, one lemma per format and field (30_encoding.md R71, R72),
and a word put together again from its fields. All are facts about the natural numbers the fields
and the word stand for. -/

namespace Sys2Proof

theorem toNat_append_eq {n m : Nat} (a : BitVec n) (b : BitVec m) :
    (a ++ b).toNat = a.toNat * 2 ^ m + b.toNat := by
  rw [BitVec.toNat_append, ← Nat.shiftLeft_add_eq_or_of_lt b.isLt, Nat.shiftLeft_eq]

/-! ## Fields as numbers -/

theorem opField_toNat (w : Word) : (opField w).toNat = w.toNat / 4096 := by
  have := w.isLt
  simp only [opField, BitVec.extractLsb'_toNat, Nat.shiftRight_eq_div_pow]
  omega

theorem xField_val (w : Word) : (xField w).val = w.toNat / 256 % 16 := by
  simp only [xField, BitVec.extractLsb', BitVec.ofNat, Fin.Internal.ofNat_eq_ofNat,
    Fin.val_ofNat, Nat.shiftRight_eq_div_pow]

theorem yField_val (w : Word) : (yField w).val = w.toNat / 16 % 16 := by
  simp only [yField, BitVec.extractLsb', BitVec.ofNat, Fin.Internal.ofNat_eq_ofNat,
    Fin.val_ofNat, Nat.shiftRight_eq_div_pow]

theorem nField_toNat (w : Word) : (nField w).toNat = w.toNat % 16 := by
  simp [nField, BitVec.extractLsb'_toNat]

theorem kkField_toNat (w : Word) : (kkField w).toNat = w.toNat % 256 := by
  simp [kkField, BitVec.extractLsb'_toNat]

theorem nnnField_toNat (w : Word) : (nnnField w).toNat = w.toNat % 4096 := by
  simp [nnnField, BitVec.extractLsb'_toNat]

theorem regBits_toNat (x : Reg) : (regBits x).toNat = x.val := rfl

/-! ## Fields of an assembled word -/

section

variable (op a b c : Nibble) (kk : Byte) (nnn : Addr) (x y : Reg)

theorem xy_toNat : (op ++ a ++ b ++ c : Word).toNat =
    4096 * op.toNat + 256 * a.toNat + 16 * b.toNat + c.toNat := by
  rw [toNat_append_eq, toNat_append_eq, toNat_append_eq]
  omega

theorem xk_toNat : (op ++ a ++ kk : Word).toNat = 4096 * op.toNat + 256 * a.toNat + kk.toNat := by
  rw [toNat_append_eq, toNat_append_eq]
  omega

theorem a_toNat : (op ++ nnn : Word).toNat = 4096 * op.toNat + nnn.toNat := by
  rw [toNat_append_eq]
  omega

@[simp] theorem opField_xy : opField (op ++ a ++ b ++ c) = op := by
  have := a.isLt; have := b.isLt; have := c.isLt
  refine BitVec.eq_of_toNat_eq ?_
  rw [opField_toNat, xy_toNat]
  omega

@[simp] theorem xField_xy : xField (op ++ regBits x ++ b ++ c) = x := by
  have := x.isLt; have := b.isLt; have := c.isLt
  refine Fin.ext ?_
  rw [xField_val, xy_toNat, regBits_toNat]
  omega

@[simp] theorem yField_xy : yField (op ++ a ++ regBits y ++ c) = y := by
  have := y.isLt; have := c.isLt
  refine Fin.ext ?_
  rw [yField_val, xy_toNat, regBits_toNat]
  omega

@[simp] theorem nField_xy : nField (op ++ a ++ b ++ c) = c := by
  have := c.isLt
  refine BitVec.eq_of_toNat_eq ?_
  rw [nField_toNat, xy_toNat]
  omega

@[simp] theorem opField_xk : opField (op ++ a ++ kk) = op := by
  have := a.isLt; have := kk.isLt
  refine BitVec.eq_of_toNat_eq ?_
  rw [opField_toNat, xk_toNat]
  omega

@[simp] theorem xField_xk : xField (op ++ regBits x ++ kk) = x := by
  have := x.isLt; have := kk.isLt
  refine Fin.ext ?_
  rw [xField_val, xk_toNat, regBits_toNat]
  omega

@[simp] theorem kkField_xk : kkField (op ++ a ++ kk) = kk := by
  have := kk.isLt
  refine BitVec.eq_of_toNat_eq ?_
  rw [kkField_toNat, xk_toNat]
  omega

@[simp] theorem opField_a : opField (op ++ nnn) = op := by
  have := nnn.isLt
  refine BitVec.eq_of_toNat_eq ?_
  rw [opField_toNat, a_toNat]
  omega

@[simp] theorem nnnField_a : nnnField (op ++ nnn) = nnn := by
  have := nnn.isLt
  refine BitVec.eq_of_toNat_eq ?_
  rw [nnnField_toNat, a_toNat]
  omega

end

/-! ## A word from its fields -/

/-- A word is its four nibbles. -/
theorem word_eq_xy (w : Word) :
    w = opField w ++ regBits (xField w) ++ regBits (yField w) ++ nField w := by
  refine BitVec.eq_of_toNat_eq ?_
  rw [xy_toNat, opField_toNat, regBits_toNat, regBits_toNat, xField_val, yField_val, nField_toNat]
  omega

/-- A word is its leading nibble, `x` and `kk`. -/
theorem word_eq_xk (w : Word) : w = opField w ++ regBits (xField w) ++ kkField w := by
  refine BitVec.eq_of_toNat_eq ?_
  rw [xk_toNat, opField_toNat, regBits_toNat, xField_val, kkField_toNat]
  omega

/-- A word is its leading nibble and `nnn`. -/
theorem word_eq_a (w : Word) : w = opField w ++ nnnField w := by
  refine BitVec.eq_of_toNat_eq ?_
  rw [a_toNat, opField_toNat, nnnField_toNat]
  omega

/-- A word is its two bytes (20_memory.md R50). -/
@[simp] theorem wordOfBytes_bytes (w : Word) : wordOfBytes (highByte w) (lowByte w) = w := by
  have := w.isLt
  refine BitVec.eq_of_toNat_eq ?_
  rw [wordOfBytes, toNat_append_eq]
  simp only [highByte, lowByte, BitVec.extractLsb'_toNat, Nat.shiftRight_eq_div_pow]
  omega

/-! ## Matching a row of the opcode map (30_encoding.md R72) -/

/-- Two concatenations of the same split are equal part by part. -/
theorem append_inj {n m : Nat} {a c : BitVec n} {b d : BitVec m} :
    a ++ b = c ++ d ↔ a = c ∧ b = d := by
  constructor
  · intro h
    have h' := congrArg BitVec.toNat h
    rw [toNat_append_eq, toNat_append_eq] at h'
    have hb := b.isLt
    have hd := d.isLt
    have low : b.toNat = d.toNat := by
      have := congrArg (· % 2 ^ m) h'
      simpa [Nat.mod_eq_of_lt hb, Nat.mod_eq_of_lt hd] using this
    have high : a.toNat = c.toNat := by
      rw [low] at h'
      exact Nat.eq_of_mul_eq_mul_right (Nat.two_pow_pos m) (by omega)
    exact ⟨BitVec.eq_of_toNat_eq high, BitVec.eq_of_toNat_eq low⟩
  · rintro ⟨rfl, rfl⟩
    rfl

/-- A word matches a row nibble by nibble. -/
theorem matchesWord_iff (r : OpcodeRow) (w : Word) : r.matchesWord w = true ↔
    opField w &&& opField r.mask = opField r.bits ∧
    regBits (xField w) &&& regBits (xField r.mask) = regBits (xField r.bits) ∧
    regBits (yField w) &&& regBits (yField r.mask) = regBits (yField r.bits) ∧
    nField w &&& nField r.mask = nField r.bits := by
  unfold OpcodeRow.matchesWord
  rw [beq_iff_eq]
  conv_lhs => rw [word_eq_xy w, word_eq_xy r.mask, word_eq_xy r.bits]
  rw [BitVec.and_append, BitVec.and_append, BitVec.and_append, append_inj, append_inj, append_inj]
  simp only [and_assoc]

end Sys2Proof
end

