-- ==== Sys2Proof/Laws/State.lean ====
section
/-! SUPPORT. One lemma per field of State per update, true by rfl, and the same for the two reads that
claims use (a register and a byte of memory), so that no later proof unfolds a record update. -/

namespace Sys2Proof.Machine

@[simp] theorem State.setV_v (s : State) (x : Reg) (b : Byte) : (s.setV x b).v = s.v.set x.val b := rfl
@[simp] theorem State.setV_index (s : State) (x : Reg) (b : Byte) : (s.setV x b).index = s.index := rfl
@[simp] theorem State.setV_pc (s : State) (x : Reg) (b : Byte) : (s.setV x b).pc = s.pc := rfl
@[simp] theorem State.setV_stack (s : State) (x : Reg) (b : Byte) : (s.setV x b).stack = s.stack := rfl
@[simp] theorem State.setV_dt (s : State) (x : Reg) (b : Byte) : (s.setV x b).dt = s.dt := rfl
@[simp] theorem State.setV_st (s : State) (x : Reg) (b : Byte) : (s.setV x b).st = s.st := rfl
@[simp] theorem State.setV_fb (s : State) (x : Reg) (b : Byte) : (s.setV x b).fb = s.fb := rfl
@[simp] theorem State.setV_keys (s : State) (x : Reg) (b : Byte) : (s.setV x b).keys = s.keys := rfl
@[simp] theorem State.setV_mem (s : State) (x : Reg) (b : Byte) : (s.setV x b).mem = s.mem := rfl
@[simp] theorem State.setV_fault (s : State) (x : Reg) (b : Byte) : (s.setV x b).fault = s.fault := rfl
@[simp] theorem State.setV_stackDepth (s : State) (x : Reg) (b : Byte) : (s.setV x b).stackDepth = s.stackDepth := rfl
@[simp] theorem State.setV_glyph (s : State) (x : Reg) (b : Byte) : (s.setV x b).glyph = s.glyph := rfl
@[simp] theorem State.setV_rndIn (s : State) (x : Reg) (b : Byte) : (s.setV x b).rndIn = s.rndIn := rfl
@[simp] theorem State.setV_rndCount (s : State) (x : Reg) (b : Byte) : (s.setV x b).rndCount = s.rndCount := rfl
@[simp] theorem State.setV_readByte (s : State) (x : Reg) (b : Byte) (q : Nat) : (s.setV x b).readByte q = s.readByte q := rfl
@[simp] theorem State.setV_halted (s : State) (x : Reg) (b : Byte) : (s.setV x b).halted = s.halted := rfl

@[simp] theorem State.setVF_v (s : State) (b : Byte) : (s.setVF b).v = s.v.set 15 b := rfl
@[simp] theorem State.setVF_index (s : State) (b : Byte) : (s.setVF b).index = s.index := rfl
@[simp] theorem State.setVF_pc (s : State) (b : Byte) : (s.setVF b).pc = s.pc := rfl
@[simp] theorem State.setVF_stack (s : State) (b : Byte) : (s.setVF b).stack = s.stack := rfl
@[simp] theorem State.setVF_dt (s : State) (b : Byte) : (s.setVF b).dt = s.dt := rfl
@[simp] theorem State.setVF_st (s : State) (b : Byte) : (s.setVF b).st = s.st := rfl
@[simp] theorem State.setVF_fb (s : State) (b : Byte) : (s.setVF b).fb = s.fb := rfl
@[simp] theorem State.setVF_keys (s : State) (b : Byte) : (s.setVF b).keys = s.keys := rfl
@[simp] theorem State.setVF_mem (s : State) (b : Byte) : (s.setVF b).mem = s.mem := rfl
@[simp] theorem State.setVF_fault (s : State) (b : Byte) : (s.setVF b).fault = s.fault := rfl
@[simp] theorem State.setVF_stackDepth (s : State) (b : Byte) : (s.setVF b).stackDepth = s.stackDepth := rfl
@[simp] theorem State.setVF_glyph (s : State) (b : Byte) : (s.setVF b).glyph = s.glyph := rfl
@[simp] theorem State.setVF_rndIn (s : State) (b : Byte) : (s.setVF b).rndIn = s.rndIn := rfl
@[simp] theorem State.setVF_rndCount (s : State) (b : Byte) : (s.setVF b).rndCount = s.rndCount := rfl
@[simp] theorem State.setVF_readByte (s : State) (b : Byte) (q : Nat) : (s.setVF b).readByte q = s.readByte q := rfl
@[simp] theorem State.setVF_halted (s : State) (b : Byte) : (s.setVF b).halted = s.halted := rfl

@[simp] theorem State.setIndex_v (s : State) (a : Word) : (s.setIndex a).v = s.v := rfl
@[simp] theorem State.setIndex_index (s : State) (a : Word) : (s.setIndex a).index = a := rfl
@[simp] theorem State.setIndex_pc (s : State) (a : Word) : (s.setIndex a).pc = s.pc := rfl
@[simp] theorem State.setIndex_stack (s : State) (a : Word) : (s.setIndex a).stack = s.stack := rfl
@[simp] theorem State.setIndex_dt (s : State) (a : Word) : (s.setIndex a).dt = s.dt := rfl
@[simp] theorem State.setIndex_st (s : State) (a : Word) : (s.setIndex a).st = s.st := rfl
@[simp] theorem State.setIndex_fb (s : State) (a : Word) : (s.setIndex a).fb = s.fb := rfl
@[simp] theorem State.setIndex_keys (s : State) (a : Word) : (s.setIndex a).keys = s.keys := rfl
@[simp] theorem State.setIndex_mem (s : State) (a : Word) : (s.setIndex a).mem = s.mem := rfl
@[simp] theorem State.setIndex_fault (s : State) (a : Word) : (s.setIndex a).fault = s.fault := rfl
@[simp] theorem State.setIndex_stackDepth (s : State) (a : Word) : (s.setIndex a).stackDepth = s.stackDepth := rfl
@[simp] theorem State.setIndex_glyph (s : State) (a : Word) : (s.setIndex a).glyph = s.glyph := rfl
@[simp] theorem State.setIndex_rndIn (s : State) (a : Word) : (s.setIndex a).rndIn = s.rndIn := rfl
@[simp] theorem State.setIndex_rndCount (s : State) (a : Word) : (s.setIndex a).rndCount = s.rndCount := rfl
@[simp] theorem State.setIndex_getV (s : State) (a : Word) (k : Reg) : (s.setIndex a).getV k = s.getV k := rfl
@[simp] theorem State.setIndex_readByte (s : State) (a : Word) (q : Nat) : (s.setIndex a).readByte q = s.readByte q := rfl
@[simp] theorem State.setIndex_halted (s : State) (a : Word) : (s.setIndex a).halted = s.halted := rfl

@[simp] theorem State.setPc_v (s : State) (a : Word) : (s.setPc a).v = s.v := rfl
@[simp] theorem State.setPc_index (s : State) (a : Word) : (s.setPc a).index = s.index := rfl
@[simp] theorem State.setPc_pc (s : State) (a : Word) : (s.setPc a).pc = a := rfl
@[simp] theorem State.setPc_stack (s : State) (a : Word) : (s.setPc a).stack = s.stack := rfl
@[simp] theorem State.setPc_dt (s : State) (a : Word) : (s.setPc a).dt = s.dt := rfl
@[simp] theorem State.setPc_st (s : State) (a : Word) : (s.setPc a).st = s.st := rfl
@[simp] theorem State.setPc_fb (s : State) (a : Word) : (s.setPc a).fb = s.fb := rfl
@[simp] theorem State.setPc_keys (s : State) (a : Word) : (s.setPc a).keys = s.keys := rfl
@[simp] theorem State.setPc_mem (s : State) (a : Word) : (s.setPc a).mem = s.mem := rfl
@[simp] theorem State.setPc_fault (s : State) (a : Word) : (s.setPc a).fault = s.fault := rfl
@[simp] theorem State.setPc_stackDepth (s : State) (a : Word) : (s.setPc a).stackDepth = s.stackDepth := rfl
@[simp] theorem State.setPc_glyph (s : State) (a : Word) : (s.setPc a).glyph = s.glyph := rfl
@[simp] theorem State.setPc_rndIn (s : State) (a : Word) : (s.setPc a).rndIn = s.rndIn := rfl
@[simp] theorem State.setPc_rndCount (s : State) (a : Word) : (s.setPc a).rndCount = s.rndCount := rfl
@[simp] theorem State.setPc_getV (s : State) (a : Word) (k : Reg) : (s.setPc a).getV k = s.getV k := rfl
@[simp] theorem State.setPc_readByte (s : State) (a : Word) (q : Nat) : (s.setPc a).readByte q = s.readByte q := rfl
@[simp] theorem State.setPc_halted (s : State) (a : Word) : (s.setPc a).halted = s.halted := rfl

@[simp] theorem State.advancePc_v (s : State) : (s.advancePc).v = s.v := rfl
@[simp] theorem State.advancePc_index (s : State) : (s.advancePc).index = s.index := rfl
@[simp] theorem State.advancePc_pc (s : State) : (s.advancePc).pc = s.pc + 2 := rfl
@[simp] theorem State.advancePc_stack (s : State) : (s.advancePc).stack = s.stack := rfl
@[simp] theorem State.advancePc_dt (s : State) : (s.advancePc).dt = s.dt := rfl
@[simp] theorem State.advancePc_st (s : State) : (s.advancePc).st = s.st := rfl
@[simp] theorem State.advancePc_fb (s : State) : (s.advancePc).fb = s.fb := rfl
@[simp] theorem State.advancePc_keys (s : State) : (s.advancePc).keys = s.keys := rfl
@[simp] theorem State.advancePc_mem (s : State) : (s.advancePc).mem = s.mem := rfl
@[simp] theorem State.advancePc_fault (s : State) : (s.advancePc).fault = s.fault := rfl
@[simp] theorem State.advancePc_stackDepth (s : State) : (s.advancePc).stackDepth = s.stackDepth := rfl
@[simp] theorem State.advancePc_glyph (s : State) : (s.advancePc).glyph = s.glyph := rfl
@[simp] theorem State.advancePc_rndIn (s : State) : (s.advancePc).rndIn = s.rndIn := rfl
@[simp] theorem State.advancePc_rndCount (s : State) : (s.advancePc).rndCount = s.rndCount := rfl
@[simp] theorem State.advancePc_getV (s : State) (k : Reg) : (s.advancePc).getV k = s.getV k := rfl
@[simp] theorem State.advancePc_readByte (s : State) (q : Nat) : (s.advancePc).readByte q = s.readByte q := rfl
@[simp] theorem State.advancePc_halted (s : State) : (s.advancePc).halted = s.halted := rfl

@[simp] theorem State.rewindPc_v (s : State) : (s.rewindPc).v = s.v := rfl
@[simp] theorem State.rewindPc_index (s : State) : (s.rewindPc).index = s.index := rfl
@[simp] theorem State.rewindPc_pc (s : State) : (s.rewindPc).pc = s.pc - 2 := rfl
@[simp] theorem State.rewindPc_stack (s : State) : (s.rewindPc).stack = s.stack := rfl
@[simp] theorem State.rewindPc_dt (s : State) : (s.rewindPc).dt = s.dt := rfl
@[simp] theorem State.rewindPc_st (s : State) : (s.rewindPc).st = s.st := rfl
@[simp] theorem State.rewindPc_fb (s : State) : (s.rewindPc).fb = s.fb := rfl
@[simp] theorem State.rewindPc_keys (s : State) : (s.rewindPc).keys = s.keys := rfl
@[simp] theorem State.rewindPc_mem (s : State) : (s.rewindPc).mem = s.mem := rfl
@[simp] theorem State.rewindPc_fault (s : State) : (s.rewindPc).fault = s.fault := rfl
@[simp] theorem State.rewindPc_stackDepth (s : State) : (s.rewindPc).stackDepth = s.stackDepth := rfl
@[simp] theorem State.rewindPc_glyph (s : State) : (s.rewindPc).glyph = s.glyph := rfl
@[simp] theorem State.rewindPc_rndIn (s : State) : (s.rewindPc).rndIn = s.rndIn := rfl
@[simp] theorem State.rewindPc_rndCount (s : State) : (s.rewindPc).rndCount = s.rndCount := rfl
@[simp] theorem State.rewindPc_getV (s : State) (k : Reg) : (s.rewindPc).getV k = s.getV k := rfl
@[simp] theorem State.rewindPc_readByte (s : State) (q : Nat) : (s.rewindPc).readByte q = s.readByte q := rfl
@[simp] theorem State.rewindPc_halted (s : State) : (s.rewindPc).halted = s.halted := rfl

@[simp] theorem State.setDt_v (s : State) (b : Byte) : (s.setDt b).v = s.v := rfl
@[simp] theorem State.setDt_index (s : State) (b : Byte) : (s.setDt b).index = s.index := rfl
@[simp] theorem State.setDt_pc (s : State) (b : Byte) : (s.setDt b).pc = s.pc := rfl
@[simp] theorem State.setDt_stack (s : State) (b : Byte) : (s.setDt b).stack = s.stack := rfl
@[simp] theorem State.setDt_dt (s : State) (b : Byte) : (s.setDt b).dt = b := rfl
@[simp] theorem State.setDt_st (s : State) (b : Byte) : (s.setDt b).st = s.st := rfl
@[simp] theorem State.setDt_fb (s : State) (b : Byte) : (s.setDt b).fb = s.fb := rfl
@[simp] theorem State.setDt_keys (s : State) (b : Byte) : (s.setDt b).keys = s.keys := rfl
@[simp] theorem State.setDt_mem (s : State) (b : Byte) : (s.setDt b).mem = s.mem := rfl
@[simp] theorem State.setDt_fault (s : State) (b : Byte) : (s.setDt b).fault = s.fault := rfl
@[simp] theorem State.setDt_stackDepth (s : State) (b : Byte) : (s.setDt b).stackDepth = s.stackDepth := rfl
@[simp] theorem State.setDt_glyph (s : State) (b : Byte) : (s.setDt b).glyph = s.glyph := rfl
@[simp] theorem State.setDt_rndIn (s : State) (b : Byte) : (s.setDt b).rndIn = s.rndIn := rfl
@[simp] theorem State.setDt_rndCount (s : State) (b : Byte) : (s.setDt b).rndCount = s.rndCount := rfl
@[simp] theorem State.setDt_getV (s : State) (b : Byte) (k : Reg) : (s.setDt b).getV k = s.getV k := rfl
@[simp] theorem State.setDt_readByte (s : State) (b : Byte) (q : Nat) : (s.setDt b).readByte q = s.readByte q := rfl
@[simp] theorem State.setDt_halted (s : State) (b : Byte) : (s.setDt b).halted = s.halted := rfl

@[simp] theorem State.setSt_v (s : State) (b : Byte) : (s.setSt b).v = s.v := rfl
@[simp] theorem State.setSt_index (s : State) (b : Byte) : (s.setSt b).index = s.index := rfl
@[simp] theorem State.setSt_pc (s : State) (b : Byte) : (s.setSt b).pc = s.pc := rfl
@[simp] theorem State.setSt_stack (s : State) (b : Byte) : (s.setSt b).stack = s.stack := rfl
@[simp] theorem State.setSt_dt (s : State) (b : Byte) : (s.setSt b).dt = s.dt := rfl
@[simp] theorem State.setSt_st (s : State) (b : Byte) : (s.setSt b).st = b := rfl
@[simp] theorem State.setSt_fb (s : State) (b : Byte) : (s.setSt b).fb = s.fb := rfl
@[simp] theorem State.setSt_keys (s : State) (b : Byte) : (s.setSt b).keys = s.keys := rfl
@[simp] theorem State.setSt_mem (s : State) (b : Byte) : (s.setSt b).mem = s.mem := rfl
@[simp] theorem State.setSt_fault (s : State) (b : Byte) : (s.setSt b).fault = s.fault := rfl
@[simp] theorem State.setSt_stackDepth (s : State) (b : Byte) : (s.setSt b).stackDepth = s.stackDepth := rfl
@[simp] theorem State.setSt_glyph (s : State) (b : Byte) : (s.setSt b).glyph = s.glyph := rfl
@[simp] theorem State.setSt_rndIn (s : State) (b : Byte) : (s.setSt b).rndIn = s.rndIn := rfl
@[simp] theorem State.setSt_rndCount (s : State) (b : Byte) : (s.setSt b).rndCount = s.rndCount := rfl
@[simp] theorem State.setSt_getV (s : State) (b : Byte) (k : Reg) : (s.setSt b).getV k = s.getV k := rfl
@[simp] theorem State.setSt_readByte (s : State) (b : Byte) (q : Nat) : (s.setSt b).readByte q = s.readByte q := rfl
@[simp] theorem State.setSt_halted (s : State) (b : Byte) : (s.setSt b).halted = s.halted := rfl

@[simp] theorem State.setFb_v (s : State) (f : Display) : (s.setFb f).v = s.v := rfl
@[simp] theorem State.setFb_index (s : State) (f : Display) : (s.setFb f).index = s.index := rfl
@[simp] theorem State.setFb_pc (s : State) (f : Display) : (s.setFb f).pc = s.pc := rfl
@[simp] theorem State.setFb_stack (s : State) (f : Display) : (s.setFb f).stack = s.stack := rfl
@[simp] theorem State.setFb_dt (s : State) (f : Display) : (s.setFb f).dt = s.dt := rfl
@[simp] theorem State.setFb_st (s : State) (f : Display) : (s.setFb f).st = s.st := rfl
@[simp] theorem State.setFb_fb (s : State) (f : Display) : (s.setFb f).fb = f := rfl
@[simp] theorem State.setFb_keys (s : State) (f : Display) : (s.setFb f).keys = s.keys := rfl
@[simp] theorem State.setFb_mem (s : State) (f : Display) : (s.setFb f).mem = s.mem := rfl
@[simp] theorem State.setFb_fault (s : State) (f : Display) : (s.setFb f).fault = s.fault := rfl
@[simp] theorem State.setFb_stackDepth (s : State) (f : Display) : (s.setFb f).stackDepth = s.stackDepth := rfl
@[simp] theorem State.setFb_glyph (s : State) (f : Display) : (s.setFb f).glyph = s.glyph := rfl
@[simp] theorem State.setFb_rndIn (s : State) (f : Display) : (s.setFb f).rndIn = s.rndIn := rfl
@[simp] theorem State.setFb_rndCount (s : State) (f : Display) : (s.setFb f).rndCount = s.rndCount := rfl
@[simp] theorem State.setFb_getV (s : State) (f : Display) (k : Reg) : (s.setFb f).getV k = s.getV k := rfl
@[simp] theorem State.setFb_readByte (s : State) (f : Display) (q : Nat) : (s.setFb f).readByte q = s.readByte q := rfl
@[simp] theorem State.setFb_halted (s : State) (f : Display) : (s.setFb f).halted = s.halted := rfl

@[simp] theorem State.setKeys_v (s : State) (ks : Vector Bool 16) : (s.setKeys ks).v = s.v := rfl
@[simp] theorem State.setKeys_index (s : State) (ks : Vector Bool 16) : (s.setKeys ks).index = s.index := rfl
@[simp] theorem State.setKeys_pc (s : State) (ks : Vector Bool 16) : (s.setKeys ks).pc = s.pc := rfl
@[simp] theorem State.setKeys_stack (s : State) (ks : Vector Bool 16) : (s.setKeys ks).stack = s.stack := rfl
@[simp] theorem State.setKeys_dt (s : State) (ks : Vector Bool 16) : (s.setKeys ks).dt = s.dt := rfl
@[simp] theorem State.setKeys_st (s : State) (ks : Vector Bool 16) : (s.setKeys ks).st = s.st := rfl
@[simp] theorem State.setKeys_fb (s : State) (ks : Vector Bool 16) : (s.setKeys ks).fb = s.fb := rfl
@[simp] theorem State.setKeys_keys (s : State) (ks : Vector Bool 16) : (s.setKeys ks).keys = ks := rfl
@[simp] theorem State.setKeys_mem (s : State) (ks : Vector Bool 16) : (s.setKeys ks).mem = s.mem := rfl
@[simp] theorem State.setKeys_fault (s : State) (ks : Vector Bool 16) : (s.setKeys ks).fault = s.fault := rfl
@[simp] theorem State.setKeys_stackDepth (s : State) (ks : Vector Bool 16) : (s.setKeys ks).stackDepth = s.stackDepth := rfl
@[simp] theorem State.setKeys_glyph (s : State) (ks : Vector Bool 16) : (s.setKeys ks).glyph = s.glyph := rfl
@[simp] theorem State.setKeys_rndIn (s : State) (ks : Vector Bool 16) : (s.setKeys ks).rndIn = s.rndIn := rfl
@[simp] theorem State.setKeys_rndCount (s : State) (ks : Vector Bool 16) : (s.setKeys ks).rndCount = s.rndCount := rfl
@[simp] theorem State.setKeys_getV (s : State) (ks : Vector Bool 16) (k : Reg) : (s.setKeys ks).getV k = s.getV k := rfl
@[simp] theorem State.setKeys_readByte (s : State) (ks : Vector Bool 16) (q : Nat) : (s.setKeys ks).readByte q = s.readByte q := rfl
@[simp] theorem State.setKeys_halted (s : State) (ks : Vector Bool 16) : (s.setKeys ks).halted = s.halted := rfl

@[simp] theorem State.setMem_v (s : State) (m : Memory) : (s.setMem m).v = s.v := rfl
@[simp] theorem State.setMem_index (s : State) (m : Memory) : (s.setMem m).index = s.index := rfl
@[simp] theorem State.setMem_pc (s : State) (m : Memory) : (s.setMem m).pc = s.pc := rfl
@[simp] theorem State.setMem_stack (s : State) (m : Memory) : (s.setMem m).stack = s.stack := rfl
@[simp] theorem State.setMem_dt (s : State) (m : Memory) : (s.setMem m).dt = s.dt := rfl
@[simp] theorem State.setMem_st (s : State) (m : Memory) : (s.setMem m).st = s.st := rfl
@[simp] theorem State.setMem_fb (s : State) (m : Memory) : (s.setMem m).fb = s.fb := rfl
@[simp] theorem State.setMem_keys (s : State) (m : Memory) : (s.setMem m).keys = s.keys := rfl
@[simp] theorem State.setMem_mem (s : State) (m : Memory) : (s.setMem m).mem = m := rfl
@[simp] theorem State.setMem_fault (s : State) (m : Memory) : (s.setMem m).fault = s.fault := rfl
@[simp] theorem State.setMem_stackDepth (s : State) (m : Memory) : (s.setMem m).stackDepth = s.stackDepth := rfl
@[simp] theorem State.setMem_glyph (s : State) (m : Memory) : (s.setMem m).glyph = s.glyph := rfl
@[simp] theorem State.setMem_rndIn (s : State) (m : Memory) : (s.setMem m).rndIn = s.rndIn := rfl
@[simp] theorem State.setMem_rndCount (s : State) (m : Memory) : (s.setMem m).rndCount = s.rndCount := rfl
@[simp] theorem State.setMem_getV (s : State) (m : Memory) (k : Reg) : (s.setMem m).getV k = s.getV k := rfl
@[simp] theorem State.setMem_halted (s : State) (m : Memory) : (s.setMem m).halted = s.halted := rfl

@[simp] theorem State.setStack_v (s : State) (l : List Word) : (s.setStack l).v = s.v := rfl
@[simp] theorem State.setStack_index (s : State) (l : List Word) : (s.setStack l).index = s.index := rfl
@[simp] theorem State.setStack_pc (s : State) (l : List Word) : (s.setStack l).pc = s.pc := rfl
@[simp] theorem State.setStack_stack (s : State) (l : List Word) : (s.setStack l).stack = l := rfl
@[simp] theorem State.setStack_dt (s : State) (l : List Word) : (s.setStack l).dt = s.dt := rfl
@[simp] theorem State.setStack_st (s : State) (l : List Word) : (s.setStack l).st = s.st := rfl
@[simp] theorem State.setStack_fb (s : State) (l : List Word) : (s.setStack l).fb = s.fb := rfl
@[simp] theorem State.setStack_keys (s : State) (l : List Word) : (s.setStack l).keys = s.keys := rfl
@[simp] theorem State.setStack_mem (s : State) (l : List Word) : (s.setStack l).mem = s.mem := rfl
@[simp] theorem State.setStack_fault (s : State) (l : List Word) : (s.setStack l).fault = s.fault := rfl
@[simp] theorem State.setStack_stackDepth (s : State) (l : List Word) : (s.setStack l).stackDepth = s.stackDepth := rfl
@[simp] theorem State.setStack_glyph (s : State) (l : List Word) : (s.setStack l).glyph = s.glyph := rfl
@[simp] theorem State.setStack_rndIn (s : State) (l : List Word) : (s.setStack l).rndIn = s.rndIn := rfl
@[simp] theorem State.setStack_rndCount (s : State) (l : List Word) : (s.setStack l).rndCount = s.rndCount := rfl
@[simp] theorem State.setStack_getV (s : State) (l : List Word) (k : Reg) : (s.setStack l).getV k = s.getV k := rfl
@[simp] theorem State.setStack_readByte (s : State) (l : List Word) (q : Nat) : (s.setStack l).readByte q = s.readByte q := rfl
@[simp] theorem State.setStack_halted (s : State) (l : List Word) : (s.setStack l).halted = s.halted := rfl

@[simp] theorem State.pushReturn_v (s : State) (a : Word) : (s.pushReturn a).v = s.v := rfl
@[simp] theorem State.pushReturn_index (s : State) (a : Word) : (s.pushReturn a).index = s.index := rfl
@[simp] theorem State.pushReturn_pc (s : State) (a : Word) : (s.pushReturn a).pc = s.pc := rfl
@[simp] theorem State.pushReturn_stack (s : State) (a : Word) : (s.pushReturn a).stack = a :: s.stack := rfl
@[simp] theorem State.pushReturn_dt (s : State) (a : Word) : (s.pushReturn a).dt = s.dt := rfl
@[simp] theorem State.pushReturn_st (s : State) (a : Word) : (s.pushReturn a).st = s.st := rfl
@[simp] theorem State.pushReturn_fb (s : State) (a : Word) : (s.pushReturn a).fb = s.fb := rfl
@[simp] theorem State.pushReturn_keys (s : State) (a : Word) : (s.pushReturn a).keys = s.keys := rfl
@[simp] theorem State.pushReturn_mem (s : State) (a : Word) : (s.pushReturn a).mem = s.mem := rfl
@[simp] theorem State.pushReturn_fault (s : State) (a : Word) : (s.pushReturn a).fault = s.fault := rfl
@[simp] theorem State.pushReturn_stackDepth (s : State) (a : Word) : (s.pushReturn a).stackDepth = s.stackDepth := rfl
@[simp] theorem State.pushReturn_glyph (s : State) (a : Word) : (s.pushReturn a).glyph = s.glyph := rfl
@[simp] theorem State.pushReturn_rndIn (s : State) (a : Word) : (s.pushReturn a).rndIn = s.rndIn := rfl
@[simp] theorem State.pushReturn_rndCount (s : State) (a : Word) : (s.pushReturn a).rndCount = s.rndCount := rfl
@[simp] theorem State.pushReturn_getV (s : State) (a : Word) (k : Reg) : (s.pushReturn a).getV k = s.getV k := rfl
@[simp] theorem State.pushReturn_readByte (s : State) (a : Word) (q : Nat) : (s.pushReturn a).readByte q = s.readByte q := rfl
@[simp] theorem State.pushReturn_halted (s : State) (a : Word) : (s.pushReturn a).halted = s.halted := rfl

@[simp] theorem raiseAt_v (s : State) (p : Word) (c : FaultCause) (i : Word) : (raiseAt p c i s).v = s.v := rfl
@[simp] theorem raiseAt_index (s : State) (p : Word) (c : FaultCause) (i : Word) : (raiseAt p c i s).index = s.index := rfl
@[simp] theorem raiseAt_pc (s : State) (p : Word) (c : FaultCause) (i : Word) : (raiseAt p c i s).pc = p := rfl
@[simp] theorem raiseAt_stack (s : State) (p : Word) (c : FaultCause) (i : Word) : (raiseAt p c i s).stack = s.stack := rfl
@[simp] theorem raiseAt_dt (s : State) (p : Word) (c : FaultCause) (i : Word) : (raiseAt p c i s).dt = s.dt := rfl
@[simp] theorem raiseAt_st (s : State) (p : Word) (c : FaultCause) (i : Word) : (raiseAt p c i s).st = s.st := rfl
@[simp] theorem raiseAt_fb (s : State) (p : Word) (c : FaultCause) (i : Word) : (raiseAt p c i s).fb = s.fb := rfl
@[simp] theorem raiseAt_keys (s : State) (p : Word) (c : FaultCause) (i : Word) : (raiseAt p c i s).keys = s.keys := rfl
@[simp] theorem raiseAt_mem (s : State) (p : Word) (c : FaultCause) (i : Word) : (raiseAt p c i s).mem = s.mem := rfl
@[simp] theorem raiseAt_fault (s : State) (p : Word) (c : FaultCause) (i : Word) : (raiseAt p c i s).fault = some ⟨c, p, i⟩ := rfl
@[simp] theorem raiseAt_stackDepth (s : State) (p : Word) (c : FaultCause) (i : Word) : (raiseAt p c i s).stackDepth = s.stackDepth := rfl
@[simp] theorem raiseAt_glyph (s : State) (p : Word) (c : FaultCause) (i : Word) : (raiseAt p c i s).glyph = s.glyph := rfl
@[simp] theorem raiseAt_rndIn (s : State) (p : Word) (c : FaultCause) (i : Word) : (raiseAt p c i s).rndIn = s.rndIn := rfl
@[simp] theorem raiseAt_rndCount (s : State) (p : Word) (c : FaultCause) (i : Word) : (raiseAt p c i s).rndCount = s.rndCount := rfl
@[simp] theorem raiseAt_getV (s : State) (p : Word) (c : FaultCause) (i : Word) (k : Reg) : (raiseAt p c i s).getV k = s.getV k := rfl
@[simp] theorem raiseAt_readByte (s : State) (p : Word) (c : FaultCause) (i : Word) (q : Nat) : (raiseAt p c i s).readByte q = s.readByte q := rfl
@[simp] theorem raiseAt_halted (s : State) (p : Word) (c : FaultCause) (i : Word) : (raiseAt p c i s).halted = true := rfl

@[simp] theorem raise_v (s : State) (c : FaultCause) (i : Word) : (raise c i s).v = s.v := rfl
@[simp] theorem raise_index (s : State) (c : FaultCause) (i : Word) : (raise c i s).index = s.index := rfl
@[simp] theorem raise_pc (s : State) (c : FaultCause) (i : Word) : (raise c i s).pc = s.pc - 2 := rfl
@[simp] theorem raise_stack (s : State) (c : FaultCause) (i : Word) : (raise c i s).stack = s.stack := rfl
@[simp] theorem raise_dt (s : State) (c : FaultCause) (i : Word) : (raise c i s).dt = s.dt := rfl
@[simp] theorem raise_st (s : State) (c : FaultCause) (i : Word) : (raise c i s).st = s.st := rfl
@[simp] theorem raise_fb (s : State) (c : FaultCause) (i : Word) : (raise c i s).fb = s.fb := rfl
@[simp] theorem raise_keys (s : State) (c : FaultCause) (i : Word) : (raise c i s).keys = s.keys := rfl
@[simp] theorem raise_mem (s : State) (c : FaultCause) (i : Word) : (raise c i s).mem = s.mem := rfl
@[simp] theorem raise_fault (s : State) (c : FaultCause) (i : Word) : (raise c i s).fault = some ⟨c, s.pc - 2, i⟩ := rfl
@[simp] theorem raise_stackDepth (s : State) (c : FaultCause) (i : Word) : (raise c i s).stackDepth = s.stackDepth := rfl
@[simp] theorem raise_glyph (s : State) (c : FaultCause) (i : Word) : (raise c i s).glyph = s.glyph := rfl
@[simp] theorem raise_rndIn (s : State) (c : FaultCause) (i : Word) : (raise c i s).rndIn = s.rndIn := rfl
@[simp] theorem raise_rndCount (s : State) (c : FaultCause) (i : Word) : (raise c i s).rndCount = s.rndCount := rfl
@[simp] theorem raise_getV (s : State) (c : FaultCause) (i : Word) (k : Reg) : (raise c i s).getV k = s.getV k := rfl
@[simp] theorem raise_readByte (s : State) (c : FaultCause) (i : Word) (q : Nat) : (raise c i s).readByte q = s.readByte q := rfl
@[simp] theorem raise_halted (s : State) (c : FaultCause) (i : Word) : (raise c i s).halted = true := rfl

@[simp] theorem raiseFetch_v (s : State) : (raiseFetch s).v = s.v := rfl
@[simp] theorem raiseFetch_index (s : State) : (raiseFetch s).index = s.index := rfl
@[simp] theorem raiseFetch_pc (s : State) : (raiseFetch s).pc = s.pc := rfl
@[simp] theorem raiseFetch_stack (s : State) : (raiseFetch s).stack = s.stack := rfl
@[simp] theorem raiseFetch_dt (s : State) : (raiseFetch s).dt = s.dt := rfl
@[simp] theorem raiseFetch_st (s : State) : (raiseFetch s).st = s.st := rfl
@[simp] theorem raiseFetch_fb (s : State) : (raiseFetch s).fb = s.fb := rfl
@[simp] theorem raiseFetch_keys (s : State) : (raiseFetch s).keys = s.keys := rfl
@[simp] theorem raiseFetch_mem (s : State) : (raiseFetch s).mem = s.mem := rfl
@[simp] theorem raiseFetch_fault (s : State) : (raiseFetch s).fault = some ⟨.fetchFault, s.pc, s.pc⟩ := rfl
@[simp] theorem raiseFetch_stackDepth (s : State) : (raiseFetch s).stackDepth = s.stackDepth := rfl
@[simp] theorem raiseFetch_glyph (s : State) : (raiseFetch s).glyph = s.glyph := rfl
@[simp] theorem raiseFetch_rndIn (s : State) : (raiseFetch s).rndIn = s.rndIn := rfl
@[simp] theorem raiseFetch_rndCount (s : State) : (raiseFetch s).rndCount = s.rndCount := rfl
@[simp] theorem raiseFetch_getV (s : State) (k : Reg) : (raiseFetch s).getV k = s.getV k := rfl
@[simp] theorem raiseFetch_readByte (s : State) (q : Nat) : (raiseFetch s).readByte q = s.readByte q := rfl
@[simp] theorem raiseFetch_halted (s : State) : (raiseFetch s).halted = true := rfl

@[simp] theorem tickTimers_v (s : State) : (tickTimers s).v = s.v := rfl
@[simp] theorem tickTimers_index (s : State) : (tickTimers s).index = s.index := rfl
@[simp] theorem tickTimers_pc (s : State) : (tickTimers s).pc = s.pc := rfl
@[simp] theorem tickTimers_stack (s : State) : (tickTimers s).stack = s.stack := rfl
@[simp] theorem tickTimers_dt (s : State) : (tickTimers s).dt = countDown s.dt := rfl
@[simp] theorem tickTimers_st (s : State) : (tickTimers s).st = countDown s.st := rfl
@[simp] theorem tickTimers_fb (s : State) : (tickTimers s).fb = s.fb := rfl
@[simp] theorem tickTimers_keys (s : State) : (tickTimers s).keys = s.keys := rfl
@[simp] theorem tickTimers_mem (s : State) : (tickTimers s).mem = s.mem := rfl
@[simp] theorem tickTimers_fault (s : State) : (tickTimers s).fault = s.fault := rfl
@[simp] theorem tickTimers_stackDepth (s : State) : (tickTimers s).stackDepth = s.stackDepth := rfl
@[simp] theorem tickTimers_glyph (s : State) : (tickTimers s).glyph = s.glyph := rfl
@[simp] theorem tickTimers_rndIn (s : State) : (tickTimers s).rndIn = s.rndIn := rfl
@[simp] theorem tickTimers_rndCount (s : State) : (tickTimers s).rndCount = s.rndCount := rfl
@[simp] theorem tickTimers_getV (s : State) (k : Reg) : (tickTimers s).getV k = s.getV k := rfl
@[simp] theorem tickTimers_readByte (s : State) (q : Nat) : (tickTimers s).readByte q = s.readByte q := rfl
@[simp] theorem tickTimers_halted (s : State) : (tickTimers s).halted = s.halted := rfl

end Sys2Proof.Machine
end

