-- ==== Sys2Proof/Laws/Memory.lean ====
section
/-! SUPPORT. Memory: a read after a write, the block forms, and that every operation keeps the one
canonical form. -/

namespace Sys2Proof.Machine

/-- An address below every listed one reads as unlisted. -/
theorem read_of_lt (m : Memory) (lo a : Nat) (h : Memory.wfFrom lo m = true) (ha : a < lo) :
    Memory.read m a = Config.resetByte a := by
  induction m generalizing lo with
  | nil => rfl
  | cons c rest ih =>
    obtain ⟨b, w⟩ := c
    simp only [Memory.wfFrom, Bool.and_eq_true, decide_eq_true_eq] at h
    have hb : b ≠ a := by omega
    simp only [Memory.read, if_neg hb]
    exact ih (b + 1) h.2 (by omega)

theorem wfFrom_mono (m : Memory) (lo lo' : Nat) (h : Memory.wfFrom lo m = true) (hl : lo' ≤ lo) :
    Memory.wfFrom lo' m = true := by
  cases m with
  | nil => rfl
  | cons c rest =>
    obtain ⟨b, w⟩ := c
    simp only [Memory.wfFrom, Bool.and_eq_true, decide_eq_true_eq] at h ⊢
    exact ⟨⟨⟨by omega, h.1.1.2⟩, h.1.2⟩, h.2⟩

/-- A write keeps the canonical form. -/
theorem write_wfFrom (m : Memory) (lo a : Nat) (v : Byte) (h : Memory.wfFrom lo m = true)
    (hlo : lo ≤ a) (ha : a ≤ 0xFFF) : Memory.wfFrom lo (Memory.write m a v) = true := by
  induction m generalizing lo with
  | nil =>
    simp only [Memory.write]
    split
    · rfl
    · rename_i hv
      simp [Memory.wfFrom, hlo, ha, hv]
  | cons c rest ih =>
    obtain ⟨b, w⟩ := c
    have h' := h
    simp only [Memory.wfFrom, Bool.and_eq_true, decide_eq_true_eq] at h
    obtain ⟨⟨⟨h1, h2⟩, h3⟩, h4⟩ := h
    simp only [Memory.write]
    split
    · split
      · exact h'
      · rename_i hab hv
        simp only [Memory.wfFrom, Bool.and_eq_true, decide_eq_true_eq]
        exact ⟨⟨⟨hlo, ha⟩, hv⟩, ⟨⟨by omega, h2⟩, h3⟩, h4⟩
    · split
      · split
        · exact wfFrom_mono rest (b + 1) lo h4 (by omega)
        · rename_i hab hv
          subst hab
          simp only [Memory.wfFrom, Bool.and_eq_true, decide_eq_true_eq]
          exact ⟨⟨⟨hlo, ha⟩, hv⟩, h4⟩
      · simp only [Memory.wfFrom, Bool.and_eq_true, decide_eq_true_eq]
        exact ⟨⟨⟨h1, h2⟩, h3⟩, ih (b + 1) h4 (by omega)⟩

theorem write_wf (m : Memory) (a : Nat) (v : Byte) (h : Memory.wf m = true) (ha : a ≤ 0xFFF) :
    Memory.wf (Memory.write m a v) = true := write_wfFrom m 0 a v h (Nat.zero_le a) ha

/-- A write leaves every other address alone, in canonical form or not. -/
theorem read_write_other (m : Memory) (a b : Nat) (v : Byte) (hab : b ≠ a) :
    Memory.read (Memory.write m a v) b = Memory.read m b := by
  have hba : a ≠ b := fun e => hab e.symm
  induction m with
  | nil =>
    simp only [Memory.write]
    split
    · rfl
    · simp [Memory.read, hba]
  | cons c rest ih =>
    obtain ⟨d, w⟩ := c
    simp only [Memory.write]
    split
    · split
      · rfl
      · simp [Memory.read, hba]
    · split
      · rename_i _ had
        subst had
        split <;> simp [Memory.read, hba]
      · simp only [Memory.read, ih]

/-- A read after a write to the same address gives the value written, in canonical form. -/
theorem read_write_same (m : Memory) (lo a : Nat) (v : Byte) (h : Memory.wfFrom lo m = true) :
    Memory.read (Memory.write m a v) a = v := by
  induction m generalizing lo with
  | nil =>
    simp only [Memory.write]
    split
    · rename_i hv
      simp [Memory.read, hv]
    · simp [Memory.read]
  | cons c rest ih =>
    obtain ⟨d, w⟩ := c
    have h' := h
    simp only [Memory.wfFrom, Bool.and_eq_true, decide_eq_true_eq] at h
    simp only [Memory.write]
    split
    · rename_i hlt
      split
      · rename_i hv
        rw [read_of_lt _ d a (by
          simp only [Memory.wfFrom, Bool.and_eq_true, decide_eq_true_eq]
          exact ⟨⟨⟨le_refl d, h.1.1.2⟩, h.1.2⟩, h.2⟩) hlt, hv]
      · simp [Memory.read]
    · split
      · rename_i _ had
        subst had
        split
        · rename_i hv
          rw [read_of_lt rest (a + 1) a h.2 (by omega), hv]
        · simp [Memory.read]
      · rename_i _ hne
        have : d ≠ a := fun e => hne e.symm
        simp only [Memory.read, if_neg this]
        exact ih (d + 1) h.2

theorem writeBlock_wf (bs : List Byte) (m : Memory) (a : Nat) (h : Memory.wf m = true)
    (ha : a + bs.length ≤ 0x1000) : Memory.wf (Memory.writeBlock m a bs) = true := by
  induction bs generalizing m a with
  | nil => exact h
  | cons b bs ih =>
    simp only [List.length_cons] at ha
    exact ih (m.write a b) (a + 1) (write_wf m a b h (by omega)) (by omega)

/-- Outside the block, a block write changes nothing. -/
theorem read_writeBlock_other (bs : List Byte) (m : Memory) (a c : Nat)
    (hc : c < a ∨ a + bs.length ≤ c) :
    Memory.read (Memory.writeBlock m a bs) c = Memory.read m c := by
  induction bs generalizing m a with
  | nil => rfl
  | cons b bs ih =>
    simp only [List.length_cons] at hc
    rw [Memory.writeBlock, ih (m.write a b) (a + 1) (by omega), read_write_other m a c b (by omega)]

/-- Inside the block, each address reads the byte stored there. -/
theorem read_writeBlock_same (bs : List Byte) (m : Memory) (a j : Nat) (h : Memory.wf m = true)
    (ha : a + bs.length ≤ 0x1000) (hj : j < bs.length) :
    Memory.read (Memory.writeBlock m a bs) (a + j) = bs[j] := by
  induction bs generalizing m a j with
  | nil => simp at hj
  | cons b bs ih =>
    simp only [List.length_cons] at ha hj
    rw [Memory.writeBlock]
    cases j with
    | zero =>
      rw [read_writeBlock_other bs _ (a + 1) (a + 0) (by omega), Nat.add_zero]
      exact read_write_same m 0 a b h
    | succ j =>
      have := ih (m.write a b) (a + 1) j (write_wf m a b h (by omega)) (by omega) (by omega)
      rw [show a + (j + 1) = a + 1 + j by omega, this]
      rfl

@[simp] theorem readBlock_length (m : Memory) (a n : Nat) : (Memory.readBlock m a n).length = n := by
  induction n generalizing a with
  | zero => rfl
  | succ n ih => simp [Memory.readBlock, ih]

theorem readBlock_getElem (m : Memory) (a n j : Nat) (h : j < (Memory.readBlock m a n).length) :
    (Memory.readBlock m a n)[j] = Memory.read m (a + j) := by
  induction n generalizing a j with
  | zero => simp [Memory.readBlock] at h
  | succ n ih =>
    simp only [Memory.readBlock]
    cases j with
    | zero => rfl
    | succ j =>
      simp only [List.getElem_cons_succ]
      rw [ih (a + 1) j, show a + 1 + j = a + (j + 1) by omega]

@[simp] theorem bcdDigits_length (b : Byte) : (bcdDigits b).length = 3 := rfl

@[simp] theorem registerBlock_length (x : Reg) (s : State) :
    (registerBlock x s).length = x.val + 1 := by
  simp [registerBlock]

end Sys2Proof.Machine
end

