-- ==== Sys2Proof/Laws/Display.lean ====
section
/-! SUPPORT. What the drawing loops do to one pixel and to the hit: the sprite row by row and column
by column equals one exclusive OR per covered pixel. -/

namespace Sys2Proof.Machine

@[simp] theorem pixel_blankDisplay (r c : Nat) : pixel blankDisplay r c = false := by
  simp only [pixel, blankDisplay, Vector.getElem?_replicate]
  split
  · simp only [Option.bind_some, Vector.getElem?_replicate]
    split <;> rfl
  · rfl

theorem pixel_togglePixel (fb : Display) (r c r' c' : Nat) (hr : r < 32) (hc : c < 64) :
    pixel (togglePixel fb r c) r' c' =
      (pixel fb r' c' ^^ decide (r' = r ∧ c' = c)) := by
  have e : fb[r]? = some fb[r] := Vector.getElem?_eq_getElem hr
  by_cases h : r = r'
  · subst h
    by_cases h2 : c = c'
    · subst h2
      simp [togglePixel, pixel, hr, hc]
    · have h2' : ¬ c' = c := fun x => h2 x.symm
      simp [togglePixel, pixel, hr, h2, h2']
  · have h' : ¬ r' = r := fun x => h x.symm
    simp [togglePixel, pixel, hr, h, h']

/-- Whether column `c` of the grid lies under the first `cols` columns of a sprite row at `x0` and
its bit of the byte is 1. -/
def rowBit (b : Byte) (x0 cols c : Nat) : Bool :=
  decide (x0 ≤ c ∧ c < x0 + cols) && b.getLsbD (7 - (c - x0))

theorem drawPixels_law (b : Byte) (row x0 : Nat) (acc : Display × Bool) (cols : Nat)
    (hr : row < 32) (hc : x0 + cols ≤ 64) :
    (∀ r c, pixel ((List.range cols).foldl (drawPixel b row x0) acc).1 r c =
      (pixel acc.1 r c ^^ (decide (r = row) && rowBit b x0 cols c))) ∧
    (((List.range cols).foldl (drawPixel b row x0) acc).2 = true ↔
      acc.2 = true ∨ ∃ c, rowBit b x0 cols c = true ∧ pixel acc.1 row c = true) := by
  induction cols with
  | zero =>
    refine ⟨fun r c => ?_, ?_⟩
    · have : rowBit b x0 0 c = false := by
        simp only [rowBit, Bool.and_eq_false_imp, decide_eq_true_eq]
        omega
      simp [this]
    · have : ∀ c, rowBit b x0 0 c = false := fun c => by
        simp only [rowBit, Bool.and_eq_false_imp, decide_eq_true_eq]
        omega
      simp [this]
  | succ cols ih =>
    obtain ⟨ih1, ih2⟩ := ih (by omega)
    have split_bit : ∀ c, rowBit b x0 (cols + 1) c =
        (rowBit b x0 cols c || (decide (c = x0 + cols) && b.getLsbD (7 - cols))) := by
      intro c
      by_cases h : c = x0 + cols
      · subst h
        simp [rowBit]
      · by_cases h2 : x0 ≤ c ∧ c < x0 + cols
        · have : x0 ≤ c ∧ c < x0 + (cols + 1) := by omega
          simp [rowBit, h, h2]
          omega
        · have : ¬ (x0 ≤ c ∧ c < x0 + (cols + 1)) := by omega
          simp only [rowBit, h2, this, h, decide_false, Bool.false_and, Bool.or_self]
    have off_before : rowBit b x0 cols (x0 + cols) = false := by simp [rowBit]
    rw [List.range_succ, List.foldl_append, List.foldl_cons, List.foldl_nil]
    generalize hA : (List.range cols).foldl (drawPixel b row x0) acc = A at ih1 ih2
    have pixel_at : pixel A.1 row (x0 + cols) = pixel acc.1 row (x0 + cols) := by
      rw [ih1, off_before]
      simp
    unfold drawPixel
    cases hb : b.getLsbD (7 - cols) with
    | false =>
      refine ⟨fun r c => ?_, ?_⟩
      · simp only [Bool.false_eq_true, if_false, ih1, split_bit, hb, Bool.and_false, Bool.or_false]
      · simp only [Bool.false_eq_true, if_false, ih2, split_bit, hb, Bool.and_false, Bool.or_false]
    | true =>
      refine ⟨fun r c => ?_, ?_⟩
      · simp only [if_true, pixel_togglePixel A.1 row (x0 + cols) r c hr (by omega), ih1, split_bit,
          hb, Bool.and_true]
        by_cases h : c = x0 + cols
        · subst h
          rw [off_before]
          by_cases h3 : r = row <;> simp [h3]
        · simp [h]
      · simp only [if_true, Bool.or_eq_true, ih2, pixel_at, split_bit, hb, Bool.and_true,
          decide_eq_true_eq]
        constructor
        · rintro ((h | ⟨c, h1, h2⟩) | h)
          · exact .inl h
          · exact .inr ⟨c, .inl h1, h2⟩
          · exact .inr ⟨x0 + cols, .inr rfl, h⟩
        · rintro (h | ⟨c, h1 | rfl, h2⟩)
          · exact .inl (.inl h)
          · exact .inl (.inr ⟨c, h1, h2⟩)
          · exact .inr h2

/-- Whether pixel `(r, c)` lies under a 1 bit of the sprite's first `rows` rows. -/
def coveredBit (m : Memory) (base x0 y0 rows cols r c : Nat) : Bool :=
  decide (y0 ≤ r ∧ r < y0 + rows) && rowBit (Memory.read m (base + (r - y0))) x0 cols c

/-- The whole sprite: one exclusive OR per covered pixel; a hit is a covered pixel that was on. -/
theorem drawRows_law (m : Memory) (base x0 y0 rows cols : Nat) (fb : Display)
    (hr : y0 + rows ≤ 32) (hc : x0 + cols ≤ 64) :
    (∀ r c, pixel (drawRows m base x0 y0 rows cols fb).1 r c =
      (pixel fb r c ^^ coveredBit m base x0 y0 rows cols r c)) ∧
    ((drawRows m base x0 y0 rows cols fb).2 = true ↔
      ∃ r c, coveredBit m base x0 y0 rows cols r c = true ∧ pixel fb r c = true) := by
  unfold drawRows
  induction rows with
  | zero =>
    have : ∀ r c, coveredBit m base x0 y0 0 cols r c = false := fun r c => by
      have : ¬ (y0 ≤ r ∧ r < y0 + 0) := by omega
      simp only [coveredBit, this, decide_false, Bool.false_and]
    simp [this]
  | succ rows ih =>
    obtain ⟨ih1, ih2⟩ := ih (by omega)
    have split_bit : ∀ r c, coveredBit m base x0 y0 (rows + 1) cols r c =
        (coveredBit m base x0 y0 rows cols r c ||
          (decide (r = y0 + rows) && rowBit (Memory.read m (base + rows)) x0 cols c)) := by
      intro r c
      by_cases h : r = y0 + rows
      · subst h
        simp [coveredBit]
      · by_cases h2 : y0 ≤ r ∧ r < y0 + rows
        · have h3 : y0 ≤ r ∧ r < y0 + (rows + 1) := by omega
          simp only [coveredBit, h2, h3, h, decide_false, Bool.false_and, Bool.or_false, true_and,
            decide_true]
        · have h3 : ¬ (y0 ≤ r ∧ r < y0 + (rows + 1)) := by omega
          simp only [coveredBit, h2, h3, h, decide_false, Bool.false_and, Bool.or_self]
    have off_before : ∀ c, coveredBit m base x0 y0 rows cols (y0 + rows) c = false := fun c => by
      simp [coveredBit]
    rw [List.range_succ, List.foldl_append, List.foldl_cons, List.foldl_nil]
    generalize hA : (List.range rows).foldl (drawRow m base x0 y0 cols) (fb, false) = A at ih1 ih2
    obtain ⟨p1, p2⟩ :=
      drawPixels_law (Memory.read m (base + rows)) (y0 + rows) x0 A cols (by omega) hc
    have pixel_at : ∀ c, pixel A.1 (y0 + rows) c = pixel fb (y0 + rows) c := fun c => by
      rw [ih1, off_before]
      simp
    unfold drawRow
    refine ⟨fun r c => ?_, ?_⟩
    · rw [p1, ih1, split_bit]
      by_cases h : r = y0 + rows
      · subst h
        rw [off_before]
        simp
      · simp [h]
    · rw [p2, ih2]
      simp only [pixel_at, split_bit, Bool.or_eq_true, Bool.and_eq_true, decide_eq_true_eq]
      constructor
      · rintro (⟨r, c, h1, h2⟩ | ⟨c, h1, h2⟩)
        · exact ⟨r, c, .inl h1, h2⟩
        · exact ⟨y0 + rows, c, .inr ⟨rfl, h1⟩, h2⟩
      · rintro ⟨r, c, h1 | ⟨rfl, h1⟩, h2⟩
        · exact .inl ⟨r, c, h1, h2⟩
        · exact .inr ⟨c, h1, h2⟩

/-- Two displays with the same pixels are the same display. -/
theorem display_ext (f g : Display) (h : ∀ r c, r < 32 → c < 64 → pixel f r c = pixel g r c) :
    f = g := by
  refine Vector.ext fun r hr => Vector.ext fun c hc => ?_
  have := h r c hr hc
  simpa [pixel, hr, hc] using this

end Sys2Proof.Machine
end

