-- ==== Sys2Proof/Laws/Registers.lean ====
section
/-! SUPPORT. Reading a register after a write, after a block of writes, and after the two flag-writing
orders; the operations that are not a plain record update. -/

namespace Sys2Proof.Machine

@[simp] theorem getV_setV (s : State) (x k : Reg) (b : Byte) :
    (s.setV x b).getV k = if k = x then b else s.getV k := by
  simp only [State.getV, State.setV, Vector.getElem_set]
  by_cases h : k = x
  · simp [h]
  · have : x.val ≠ k.val := fun e => h (Fin.ext e.symm)
    simp [h, this]

@[simp] theorem getV_setVF (s : State) (k : Reg) (b : Byte) :
    (s.setVF b).getV k = if k = 15 then b else s.getV k := getV_setV s 15 k b

theorem getV_resultThenFlag (x k : Reg) (r f : Byte) (s : State) :
    (resultThenFlag x r f s).getV k = if k = 15 then f else if k = x then r else s.getV k := by
  simp [resultThenFlag]

theorem getV_flagThenResult (x k : Reg) (r f : Byte) (s : State) :
    (flagThenResult x r f s).getV k = if k = x then r else if k = 15 then f else s.getV k := by
  simp [flagThenResult]

/-- A block of registers: `V[k + j]` takes the `j`-th byte, the others stay. -/
theorem getV_setBlock (bs : List Byte) (s : State) (k : Nat) (j : Reg) :
    (s.setBlock k bs).getV j =
      if h : k ≤ j.val ∧ j.val - k < bs.length then bs[j.val - k]'h.2 else s.getV j := by
  induction bs generalizing s k with
  | nil => simp [State.setBlock]
  | cons b bs ih =>
    rw [State.setBlock, ih]
    have hj := j.isLt
    by_cases h : k + 1 ≤ j.val
    · have e : j.val - k = (j.val - (k + 1)) + 1 := by omega
      have hk : k ≠ j.val := by omega
      by_cases h2 : j.val - (k + 1) < bs.length
      · rw [dif_pos ⟨h, h2⟩, dif_pos ⟨by omega, by simp only [List.length_cons]; omega⟩]
        simp only [e, List.getElem_cons_succ]
      · rw [dif_neg (by omega), dif_neg (by simp only [List.length_cons]; omega)]
        simp [State.getV, hk]
    · rw [dif_neg (by omega)]
      by_cases h0 : k = j.val
      · rw [dif_pos ⟨by omega, by simp only [List.length_cons]; omega⟩]
        subst h0
        simp [State.getV]
      · rw [dif_neg (by omega)]
        simp [State.getV, h0]

/-- A block of register writes changes nothing but registers. -/
theorem setBlock_rest (bs : List Byte) (s : State) (k : Nat) :
    s.setBlock k bs = { s with v := (s.setBlock k bs).v } := by
  induction bs generalizing s k with
  | nil => rfl
  | cons b bs ih => rw [State.setBlock, ih]

/-- Drawing a random byte changes nothing but the random input. -/
theorem consumeRnd_rest (s : State) :
    consumeRnd s = { s with rndIn := (consumeRnd s).rndIn, rndCount := (consumeRnd s).rndCount } := by
  unfold consumeRnd
  split <;> rfl

@[simp] theorem getV_consumeRnd (s : State) (k : Reg) : (consumeRnd s).getV k = s.getV k := by
  rw [consumeRnd_rest]
  rfl

/-- A skip moves `PC` and nothing else. -/
theorem skipIf_eq (s : State) (c : Bool) :
    s.skipIf c = s.setPc (if c then s.pc + 2 else s.pc) := by
  cases c <;> rfl

@[simp] theorem countDown_toNat (b : Byte) : (countDown b).toNat = b.toNat - 1 := by
  unfold countDown
  split
  · simp_all
  · rename_i h
    have : 0 < b.toNat := by
      rcases Nat.eq_zero_or_pos b.toNat with h0 | h0
      · exact absurd (BitVec.eq_of_toNat_eq (by simpa using h0)) h
      · exact h0
    have hb := b.isLt
    rw [BitVec.toNat_sub]
    simp
    omega

end Sys2Proof.Machine
end

