-- ==== Sys2Proof/Laws/Ops.lean ====
section
/-! SUPPORT. One lemma per shared operation that says everything it can do: the block check, the digit
check, the lowest key, the fetch, the end of a Step, and the Step itself. -/

namespace Sys2Proof.Machine

/-- Inside memory the block check runs its body; outside it raises DataAddressFault. -/
theorem withBlock_in (last : Nat) (s : State) (body : State → State)
    (h : s.index.toNat + last ≤ 0xFFF) : withBlock last s body = .next (body s) := by
  have : ¬ (s.index.toNat + last > 0xFFF) := by omega
  unfold withBlock dataAddress
  rw [if_neg this]

theorem withBlock_out (last : Nat) (s : State) (body : State → State)
    (h : 0xFFF < s.index.toNat + last) :
    withBlock last s body = .next (raise .dataAddressFault (dataFaultInfo s) s) := by
  unfold withBlock dataAddress
  rw [if_pos h]

theorem withDigit_in (x : Reg) (s : State) (body : Reg → State → State)
    (h : (s.getV x).toNat < 16) : withDigit x s body = .next (body ⟨(s.getV x).toNat, h⟩ s) := by
  simp only [withDigit, dif_pos h]

theorem withDigit_out (x : Reg) (s : State) (body : Reg → State → State)
    (h : 15 < (s.getV x).toNat) :
    withDigit x s body = .next (raise .operandRangeFault (byteToWord (s.getV x)) s) := by
  have : ¬ (s.getV x).toNat < 16 := by omega
  simp only [withDigit, dif_neg this]

@[simp] theorem dataFaultInfo_toNat (s : State) :
    (dataFaultInfo s).toNat = max s.index.toNat 0x1000 := by
  have := s.index.isLt
  simp only [dataFaultInfo, BitVec.toNat_ofNat]
  omega

@[simp] theorem byteToWord_toNat (b : Byte) : (byteToWord b).toNat = b.toNat := by
  have := b.isLt
  simp only [byteToWord, BitVec.toNat_setWidth]
  omega

@[simp] theorem zext16_toNat (a : Addr) : (zext16 a).toNat = a.toNat := by
  have := a.isLt
  simp only [zext16, BitVec.toNat_setWidth]
  omega

/-- The lowest pressed key is down, and every lower key is up. -/
theorem lowestKey_some (s : State) (k : Reg) (h : lowestKey s = some k) :
    s.keyDown k = true ∧ ∀ j : Reg, j < k → s.keyDown j = false := by
  have e : keyIndices = List.finRange 16 := by decide
  rw [lowestKey, e, List.find?_eq_some_iff_getElem] at h
  obtain ⟨h1, i, hi, h2, h3⟩ := h
  refine ⟨h1, fun j hj => ?_⟩
  simp only [List.getElem_finRange, Fin.cast_mk] at h2
  subst h2
  have := h3 j.val (by simpa [Fin.lt_def] using hj)
  simpa using this

theorem lowestKey_none (s : State) (h : lowestKey s = none) (k : Reg) : s.keyDown k = false := by
  have e : keyIndices = List.finRange 16 := by decide
  rw [lowestKey, e, List.find?_eq_none] at h
  simpa using h k (List.mem_finRange k)

/-- Outside memory nothing is fetched; inside, the two bytes at `PC`, big-endian. -/
theorem fetchWord_out (s : State) (h : 0xFFE < s.pc.toNat) : fetchWord s = none := by
  simp only [fetchWord, if_pos h]

theorem fetchWord_in (s : State) (h : s.pc.toNat ≤ 0xFFE) :
    fetchWord s = some (s.readByte s.pc.toNat ++ s.readByte (s.pc.toNat + 1)) := by
  have : ¬ (s.pc.toNat > 0xFFE) := by omega
  simp only [fetchWord, if_neg this]

theorem append_toNat (a b : Byte) : (a ++ b : Word).toNat = 256 * a.toNat + b.toNat := by
  have := b.isLt
  rw [BitVec.toNat_append, ← Nat.shiftLeft_add_eq_or_of_lt this, Nat.shiftLeft_eq]
  omega

@[simp] theorem halted_eq_false (s : State) : s.halted = false ↔ s.fault = none := by
  simp [State.halted]

@[simp] theorem halted_eq_true (s : State) : s.halted = true ↔ s.fault ≠ none := by
  simp [State.halted, Option.isSome_iff_ne_none]

/-- Everything a Step can be: no change on a halted core, FetchFault outside memory, else the
dispatch of the fetched word with `PC` advanced, and the end of the Step. -/
theorem step_cases (s : State) :
    (s.fault ≠ none ∧ step s = .next s) ∨
    (s.fault = none ∧ 0xFFE < s.pc.toNat ∧ step s = .next (raiseFetch s)) ∨
    (s.fault = none ∧ s.pc.toNat ≤ 0xFFE ∧
      step s = endStep (dispatchWord (s.readByte s.pc.toNat ++ s.readByte (s.pc.toNat + 1)) s.advancePc)) := by
  by_cases hf : s.fault = none
  · right
    have hh : s.halted = false := by simpa using hf
    by_cases hp : 0xFFE < s.pc.toNat
    · left
      refine ⟨hf, hp, ?_⟩
      simp only [step, hh, fetchWord_out s hp, Bool.false_eq_true, if_false]
    · right
      refine ⟨hf, by omega, ?_⟩
      simp only [step, hh, fetchWord_in s (by omega), Bool.false_eq_true, if_false]
  · left
    have hh : s.halted = true := by simpa using hf
    exact ⟨hf, by simp only [step, hh, if_true]⟩

/-- Reset keeps both parameters, and gives the reset state of a core unchanged back. -/
@[simp] theorem hostReset_glyph (s : State) : (hostReset s).glyph = s.glyph := rfl

@[simp] theorem hostReset_stackDepth (s : State) : (hostReset s).stackDepth = s.stackDepth := rfl

@[simp] theorem hostReset_resetWith (g : Glyph) (d : StackDepth) :
    hostReset (State.resetWith g d) = State.resetWith g d := rfl

/-- Reset sees nothing of a state but its parameters and its random input. -/
theorem hostReset_congr (s t : State) (hg : t.glyph = s.glyph) (hd : t.stackDepth = s.stackDepth)
    (hi : t.rndIn = s.rndIn) (hc : t.rndCount = s.rndCount) : hostReset t = hostReset s := by
  simp only [hostReset, hg, hd, hi, hc]

/-- A state that a machine's step answers with itself is where any number of steps ends. -/
theorem run_of_step_eq (M : Host.Core) (s : M.State) (h : M.step s = .next s) (k : Nat) :
    M.run k s = .next s := by
  induction k with
  | zero => rfl
  | succ k ih => simp only [Host.Core.run, h, ih]

end Sys2Proof.Machine
end

