-- ==== Sys2Proof/Laws/PerInstr.lean ====
section
/-! SUPPORT. The family EncodingRow, one lemma per operation: the operation's word matches the row of
the opcode map that bears its name (30_encoding.md R75, R83), whatever its operands. -/

namespace Sys2Proof.Laws.EncodingRow

/-- The row of the opcode map with the operation's name is matched by the operation's word. -/
def Statement (i : Instr) : Prop :=
  ∃ r ∈ opcodeMap, r.name = mnemonic i ∧ r.matchesWord (encode i) = true

/-- A row that tests the leading nibble alone (formats A, XK and XYN). -/
theorem of_op (i : Instr) (bits : Word) (hr : ⟨mnemonic i, bits, 0xF000⟩ ∈ opcodeMap)
    (hop : opField (encode i) = opField bits)
    (hrest : xField bits = 0 ∧ yField bits = 0 ∧ nField bits = 0) : Statement i := by
  obtain ⟨hx, hy, hn⟩ := hrest
  refine ⟨_, hr, rfl, (matchesWord_iff _ _).2 ?_⟩
  simp only [hop, hx, hy, hn, show opField 0xF000 = BitVec.allOnes 4 from rfl,
    show regBits (xField 0xF000) = 0#4 from rfl, show regBits (yField 0xF000) = 0#4 from rfl,
    show nField 0xF000 = 0#4 from rfl, BitVec.and_allOnes, BitVec.and_zero, true_and]
  exact ⟨rfl, rfl, rfl⟩

/-- A row that tests the first and the last nibble (format XY). -/
theorem of_op_n (i : Instr) (bits : Word) (hr : ⟨mnemonic i, bits, 0xF00F⟩ ∈ opcodeMap)
    (hop : opField (encode i) = opField bits) (hn : nField (encode i) = nField bits)
    (hrest : xField bits = 0 ∧ yField bits = 0) : Statement i := by
  obtain ⟨hx, hy⟩ := hrest
  refine ⟨_, hr, rfl, (matchesWord_iff _ _).2 ?_⟩
  simp only [hop, hx, hy, hn, show opField 0xF00F = BitVec.allOnes 4 from rfl,
    show regBits (xField 0xF00F) = 0#4 from rfl, show regBits (yField 0xF00F) = 0#4 from rfl,
    show nField 0xF00F = BitVec.allOnes 4 from rfl, BitVec.and_allOnes, BitVec.and_zero, true_and,
    and_true]
  exact ⟨rfl, rfl⟩

/-- A row that tests every nibble but `x` (format X): the word is `op`, `x`, `kk`. -/
theorem of_op_kk (i : Instr) (bits : Word) (op : Nibble) (x : Reg) (kk : Byte)
    (hr : ⟨mnemonic i, bits, 0xF0FF⟩ ∈ opcodeMap) (hi : encode i = op ++ regBits x ++ kk)
    (hb : bits = op ++ 0x0#4 ++ kk) : Statement i := by
  refine ⟨_, hr, rfl, ?_⟩
  show (encode i &&& 0xF0FF == bits) = true
  rw [beq_iff_eq, hi, hb, show (0xF0FF : Word) = 0xF#4 ++ 0x0#4 ++ 0xFF#8 from rfl,
    BitVec.and_append, BitVec.and_append, append_inj, append_inj]
  exact ⟨⟨BitVec.and_allOnes, BitVec.and_zero⟩, BitVec.and_allOnes⟩

theorem clearDisplay : Statement .clearDisplay :=
  ⟨⟨"clear-display", 0x00E0, 0xFFFF⟩, by decide, rfl, rfl⟩

theorem ret : Statement .ret :=
  ⟨⟨"return", 0x00EE, 0xFFFF⟩, by decide, rfl, rfl⟩

theorem jump (nnn : Addr) : Statement (.jump nnn) :=
  of_op _ 0x1000 (by simp only [mnemonic]; decide) (opField_a _ _) (by decide)

theorem call (nnn : Addr) : Statement (.call nnn) :=
  of_op _ 0x2000 (by simp only [mnemonic]; decide) (opField_a _ _) (by decide)

theorem skipIfEqual (x : Reg) (kk : Byte) : Statement (.skipIfEqual x kk) :=
  of_op _ 0x3000 (by simp only [mnemonic]; decide) (opField_xk _ _ _) (by decide)

theorem skipIfNotEqual (x : Reg) (kk : Byte) : Statement (.skipIfNotEqual x kk) :=
  of_op _ 0x4000 (by simp only [mnemonic]; decide) (opField_xk _ _ _) (by decide)

theorem skipIfRegistersEqual (x y : Reg) : Statement (.skipIfRegistersEqual x y) :=
  of_op_n _ 0x5000 (by simp only [mnemonic]; decide) (opField_xy _ _ _ _) (nField_xy _ _ _ _) (by decide)

theorem set (x : Reg) (kk : Byte) : Statement (.set x kk) :=
  of_op _ 0x6000 (by simp only [mnemonic]; decide) (opField_xk _ _ _) (by decide)

theorem addImmediate (x : Reg) (kk : Byte) : Statement (.addImmediate x kk) :=
  of_op _ 0x7000 (by simp only [mnemonic]; decide) (opField_xk _ _ _) (by decide)

theorem copy (x y : Reg) : Statement (.copy x y) :=
  of_op_n _ 0x8000 (by simp only [mnemonic]; decide) (opField_xy _ _ _ _) (nField_xy _ _ _ _) (by decide)

theorem orRegs (x y : Reg) : Statement (.orRegs x y) :=
  of_op_n _ 0x8001 (by simp only [mnemonic]; decide) (opField_xy _ _ _ _) (nField_xy _ _ _ _) (by decide)

theorem andRegs (x y : Reg) : Statement (.andRegs x y) :=
  of_op_n _ 0x8002 (by simp only [mnemonic]; decide) (opField_xy _ _ _ _) (nField_xy _ _ _ _) (by decide)

theorem xorRegs (x y : Reg) : Statement (.xorRegs x y) :=
  of_op_n _ 0x8003 (by simp only [mnemonic]; decide) (opField_xy _ _ _ _) (nField_xy _ _ _ _) (by decide)

theorem addRegs (x y : Reg) : Statement (.addRegs x y) :=
  of_op_n _ 0x8004 (by simp only [mnemonic]; decide) (opField_xy _ _ _ _) (nField_xy _ _ _ _) (by decide)

theorem subRegs (x y : Reg) : Statement (.subRegs x y) :=
  of_op_n _ 0x8005 (by simp only [mnemonic]; decide) (opField_xy _ _ _ _) (nField_xy _ _ _ _) (by decide)

theorem shiftRight (x y : Reg) : Statement (.shiftRight x y) :=
  of_op_n _ 0x8006 (by simp only [mnemonic]; decide) (opField_xy _ _ _ _) (nField_xy _ _ _ _) (by decide)

theorem subReverse (x y : Reg) : Statement (.subReverse x y) :=
  of_op_n _ 0x8007 (by simp only [mnemonic]; decide) (opField_xy _ _ _ _) (nField_xy _ _ _ _) (by decide)

theorem shiftLeft (x y : Reg) : Statement (.shiftLeft x y) :=
  of_op_n _ 0x800E (by simp only [mnemonic]; decide) (opField_xy _ _ _ _) (nField_xy _ _ _ _) (by decide)

theorem skipIfRegistersNotEqual (x y : Reg) : Statement (.skipIfRegistersNotEqual x y) :=
  of_op_n _ 0x9000 (by simp only [mnemonic]; decide) (opField_xy _ _ _ _) (nField_xy _ _ _ _) (by decide)

theorem setIndex (nnn : Addr) : Statement (.setIndex nnn) :=
  of_op _ 0xA000 (by simp only [mnemonic]; decide) (opField_a _ _) (by decide)

theorem jumpWithOffset (nnn : Addr) : Statement (.jumpWithOffset nnn) :=
  of_op _ 0xB000 (by simp only [mnemonic]; decide) (opField_a _ _) (by decide)

theorem randomAnd (x : Reg) (kk : Byte) : Statement (.randomAnd x kk) :=
  of_op _ 0xC000 (by simp only [mnemonic]; decide) (opField_xk _ _ _) (by decide)

theorem drawSprite (x y : Reg) (n : Nibble) : Statement (.drawSprite x y n) :=
  of_op _ 0xD000 (by simp only [mnemonic]; decide) (opField_xy _ _ _ _) (by decide)

theorem skipIfKeyDown (x : Reg) : Statement (.skipIfKeyDown x) :=
  of_op_kk _ 0xE09E 0xE x 0x9E (by simp only [mnemonic]; decide) rfl rfl

theorem skipIfKeyUp (x : Reg) : Statement (.skipIfKeyUp x) :=
  of_op_kk _ 0xE0A1 0xE x 0xA1 (by simp only [mnemonic]; decide) rfl rfl

theorem getDelayTimer (x : Reg) : Statement (.getDelayTimer x) :=
  of_op_kk _ 0xF007 0xF x 0x07 (by simp only [mnemonic]; decide) rfl rfl

theorem waitForKey (x : Reg) : Statement (.waitForKey x) :=
  of_op_kk _ 0xF00A 0xF x 0x0A (by simp only [mnemonic]; decide) rfl rfl

theorem setDelayTimer (x : Reg) : Statement (.setDelayTimer x) :=
  of_op_kk _ 0xF015 0xF x 0x15 (by simp only [mnemonic]; decide) rfl rfl

theorem setSoundTimer (x : Reg) : Statement (.setSoundTimer x) :=
  of_op_kk _ 0xF018 0xF x 0x18 (by simp only [mnemonic]; decide) rfl rfl

theorem addToIndex (x : Reg) : Statement (.addToIndex x) :=
  of_op_kk _ 0xF01E 0xF x 0x1E (by simp only [mnemonic]; decide) rfl rfl

theorem loadGlyphAddress (x : Reg) : Statement (.loadGlyphAddress x) :=
  of_op_kk _ 0xF029 0xF x 0x29 (by simp only [mnemonic]; decide) rfl rfl

theorem storeBcd (x : Reg) : Statement (.storeBcd x) :=
  of_op_kk _ 0xF033 0xF x 0x33 (by simp only [mnemonic]; decide) rfl rfl

theorem storeRegisters (x : Reg) : Statement (.storeRegisters x) :=
  of_op_kk _ 0xF055 0xF x 0x55 (by simp only [mnemonic]; decide) rfl rfl

theorem loadRegisters (x : Reg) : Statement (.loadRegisters x) :=
  of_op_kk _ 0xF065 0xF x 0x65 (by simp only [mnemonic]; decide) rfl rfl

end Sys2Proof.Laws.EncodingRow
end

