-- ==== Sys2Proof/Machine/Assembly.lean ====
section
/-! DEFINITION. The assembly notation of the spec (30_encoding.md R81, R82; decision D21): an
instruction as its line of text, and a program of instructions, labels and directives laid out as
bytes. No other definition of the model depends on it; reading a program's text is left out
(log entry 22). -/

namespace Sys2Proof.Machine

/-- A register as the notation writes it: V0 to V9, VA to VF (R81). -/
def registerText (x : Reg) : String :=
  String.ofList ['V', ['0', '1', '2', '3', '4', '5', '6', '7', '8', '9', 'A', 'B', 'C', 'D', 'E', 'F'][x.val]]

/-- The operands, in the document's order, separated by commas (R81). -/
def operandText : List String → String
  | [] => ""
  | a :: rest => rest.foldl (fun line b => line ++ ", " ++ b) (" " ++ a)

/-- The operands of an operation, immediates and addresses in decimal; of a shift only `Vx` is
written (R81). -/
def operandTexts : Instr → List String
  | .clearDisplay | .ret => []
  | .jump nnn | .call nnn | .setIndex nnn | .jumpWithOffset nnn => [Nat.repr nnn.toNat]
  | .skipIfEqual x kk | .skipIfNotEqual x kk | .set x kk | .addImmediate x kk | .randomAnd x kk =>
    [registerText x, Nat.repr kk.toNat]
  | .skipIfRegistersEqual x y | .copy x y | .orRegs x y | .andRegs x y | .xorRegs x y
  | .addRegs x y | .subRegs x y | .subReverse x y | .skipIfRegistersNotEqual x y =>
    [registerText x, registerText y]
  | .drawSprite x y n => [registerText x, registerText y, Nat.repr n.toNat]
  | .shiftRight x _ | .shiftLeft x _ | .skipIfKeyDown x | .skipIfKeyUp x | .getDelayTimer x
  | .waitForKey x | .setDelayTimer x | .setSoundTimer x | .addToIndex x | .loadGlyphAddress x
  | .storeBcd x | .storeRegisters x | .loadRegisters x => [registerText x]

/-- The line of an operation: its name, then its operands (R81). -/
def instrText (i : Instr) : String := mnemonic i ++ operandText (operandTexts i)

/-- The operations whose operand may be a label (R81). -/
inductive AddrOp where
  | jump
  | call
  | setIndex
  | jumpWithOffset
  deriving DecidableEq, Repr

/-- The operation once its label has an address. -/
def AddrOp.instr : AddrOp → Addr → Instr
  | .jump => .jump
  | .call => .call
  | .setIndex => .setIndex
  | .jumpWithOffset => .jumpWithOffset

/-- One line of a program (R81, R82). -/
inductive AsmLine where
  /-- a label: the address of the next line's bytes -/
  | label (name : String)
  /-- an operation with numeric operands -/
  | instr (i : Instr)
  /-- an operation whose operand is a label -/
  | addr (op : AddrOp) (name : String)
  /-- the listed bytes -/
  | db (bytes : List Byte)
  /-- a 16-bit value, big-endian -/
  | dw (w : Word)
  /-- sets the current address -/
  | org (a : Nat)
  deriving DecidableEq, Repr

/-- The address after a line that starts at `a`. -/
def AsmLine.next (l : AsmLine) (a : Nat) : Nat :=
  match l with
  | .label _ => a
  | .instr _ | .addr _ _ | .dw _ => a + 2
  | .db bytes => a + bytes.length
  | .org b => b

/-- The address of a label in a program that starts at `a`: the first line that defines it. -/
def labelAddress (name : String) : List AsmLine → Nat → Option Nat
  | [], _ => none
  | .label n :: rest, a => if n = name then some a else labelAddress name rest a
  | l :: rest, a => labelAddress name rest (l.next a)

/-- The two bytes of a word at `a`, the more significant first (20_memory.md R50). -/
def wordCells (w : Word) (a : Nat) : List Host.Cell := [(a, highByte w), (a + 1, lowByte w)]

/-- Consecutive bytes from `a`. -/
def byteCells : List Byte → Nat → List Host.Cell
  | [], _ => []
  | b :: rest, a => (a, b) :: byteCells rest (a + 1)

/-- The `y` field of a shift is assembled as 0 (R81). -/
def assembledInstr : Instr → Instr
  | .shiftRight x _ => .shiftRight x 0
  | .shiftLeft x _ => .shiftLeft x 0
  | i => i

/-- The bytes of one line at `a`; none for a label that is undefined or above 0xFFF. -/
def AsmLine.cells (l : AsmLine) (labels : String → Option Nat) (a : Nat) : Option (List Host.Cell) :=
  match l with
  | .label _ | .org _ => some []
  | .instr i => some (wordCells (encode (assembledInstr i)) a)
  | .addr op name =>
    match labels name with
    | some t => if t ≤ 0xFFF then some (wordCells (encode (op.instr (BitVec.ofNat 12 t))) a) else none
    | none => none
  | .db bytes => some (byteCells bytes a)
  | .dw w => some (wordCells w a)

/-- The bytes of the lines from `a` on, in the lines' order. -/
def assembleFrom (labels : String → Option Nat) : List AsmLine → Nat → Option (List Host.Cell)
  | [], _ => some []
  | l :: rest, a =>
    match l.cells labels a, assembleFrom labels rest (l.next a) with
    | some here, some later => some (here ++ later)
    | _, _ => none

/-- A program's bytes; its first byte is at 0x200 (R82). -/
def assemble (lines : List AsmLine) : Option (List Host.Cell) :=
  assembleFrom (fun name => labelAddress name lines 0x200) lines 0x200

end Sys2Proof.Machine
end

