-- ==== Sys2Proof/Tests/Slice0.lean ====
section
/-! SUPPORT. The model's own tests: the checks of WellFormed refuse ill-formed terms, every operation's
word decodes (words written out from 30_encoding.md R75), single Steps against the vectors of
95_test_vectors.md, and a witness for the hypotheses of every statement. -/

namespace Sys2Proof.Tests

open Sys2Proof.Machine Sys2Proof.Safety

set_option maxRecDepth 40000

/-- `s` with the word `w` where the next Step fetches. -/
def probe (w : Nat) (s : State) : State := s.withFetchWord 16 w

/-- Whether an answer is a next state that meets `p`. -/
def meets (a : Answer) (p : State → Bool) : Bool :=
  match a with
  | .next t => p t
  | _ => false

/-- Whether one Step gives a next state that meets `p`. -/
def after (s : State) (p : State → Bool) : Bool := meets (step s) p

/-- `s` with one byte of memory changed. -/
def poke (a : Nat) (b : Byte) (s : State) : State := s.setMem (s.mem.write a b)

/-- The reset state with one pixel on. -/
def lit (r c : Nat) : State := State.reset.setFb (togglePixel blankDisplay r c)

/-- The reset state with the named keys down. -/
def withKeys (ks : List Nat) : State :=
  State.reset.setKeys (Vector.ofFn fun i : Fin 16 => decide (i.val ∈ ks))

/-- The reset state on a core of a finite stack depth. -/
def depth (d : Nat) (s : State) : State := { s with stackDepth := .limit d }

/-- A state with a latched fault (T142's record). -/
def faulted : State := { State.reset with fault := some ⟨.dataAddressFault, 0x300, 0x1000⟩, dt := 5 }

/-! ## Ill-formed terms are refused -/

/-- R81: the spec's assembly writes no `y` in a shift. -/
theorem test_shift_with_y_is_not_canonical :
    Instr.canonical (.shiftRight 1 2) = false ∧ Instr.canonical (.shiftLeft 1 2) = false ∧
      Instr.canonical (.shiftRight 1 0) = true := by decide

/-- R32: a depth of 0 is not positive. -/
theorem test_depth_zero_is_refused :
    StackDepth.wellFormed (.limit 0) = false ∧ StackDepth.wellFormed (.limit 1) = true := by decide

/-- R171: 3585 bytes do not fit, 3584 do. -/
theorem test_long_image_is_refused :
    imageFits (List.replicate 3585 0) = false ∧ imageFits (List.replicate 3584 0) = true := by
  simp [imageFits]

/-- Log entry 7: unsorted, repeated, out of range, and an entry equal to the unlisted byte. -/
theorem test_bad_memory_is_refused :
    Memory.wf [(0x301, 1), (0x300, 1)] = false ∧ Memory.wf [(0x300, 1), (0x300, 2)] = false ∧
      Memory.wf [(0x1000, 1)] = false ∧ Memory.wf [(0x300, 0)] = false ∧
      Memory.wf [(0x300, 1), (0x301, 2)] = true := by decide

/-! ## Decoding, a word for every operation (R75) -/

theorem test_decode_clear_display : decode [0x00, 0xE0] = .ok (.clearDisplay, []) ∧ encode (.clearDisplay) = 0x00E0 := by decide

theorem test_decode_ret : decode [0x00, 0xEE] = .ok (.ret, []) ∧ encode (.ret) = 0x00EE := by decide

theorem test_decode_jump : decode [0x1A, 0xBC] = .ok (.jump 0xABC, []) ∧ encode (.jump 0xABC) = 0x1ABC := by decide

theorem test_decode_call : decode [0x23, 0x00] = .ok (.call 0x300, []) ∧ encode (.call 0x300) = 0x2300 := by decide

theorem test_decode_skip_if_equal : decode [0x3A, 0x05] = .ok (.skipIfEqual 10 0x05, []) ∧ encode (.skipIfEqual 10 0x05) = 0x3A05 := by decide

theorem test_decode_skip_if_not_equal : decode [0x4B, 0x7F] = .ok (.skipIfNotEqual 11 0x7F, []) ∧ encode (.skipIfNotEqual 11 0x7F) = 0x4B7F := by decide

theorem test_decode_skip_if_registers_equal : decode [0x51, 0x20] = .ok (.skipIfRegistersEqual 1 2, []) ∧ encode (.skipIfRegistersEqual 1 2) = 0x5120 := by decide

theorem test_decode_set : decode [0x6A, 0x2A] = .ok (.set 10 0x2A, []) ∧ encode (.set 10 0x2A) = 0x6A2A := by decide

theorem test_decode_add_immediate : decode [0x71, 0xFE] = .ok (.addImmediate 1 0xFE, []) ∧ encode (.addImmediate 1 0xFE) = 0x71FE := by decide

theorem test_decode_copy : decode [0x81, 0x20] = .ok (.copy 1 2, []) ∧ encode (.copy 1 2) = 0x8120 := by decide

theorem test_decode_or_regs : decode [0x83, 0x41] = .ok (.orRegs 3 4, []) ∧ encode (.orRegs 3 4) = 0x8341 := by decide

theorem test_decode_and_regs : decode [0x85, 0x62] = .ok (.andRegs 5 6, []) ∧ encode (.andRegs 5 6) = 0x8562 := by decide

theorem test_decode_xor_regs : decode [0x87, 0x83] = .ok (.xorRegs 7 8, []) ∧ encode (.xorRegs 7 8) = 0x8783 := by decide

theorem test_decode_add_regs : decode [0x81, 0x24] = .ok (.addRegs 1 2, []) ∧ encode (.addRegs 1 2) = 0x8124 := by decide

theorem test_decode_sub_regs : decode [0x89, 0xA5] = .ok (.subRegs 9 10, []) ∧ encode (.subRegs 9 10) = 0x89A5 := by decide

theorem test_decode_shift_right : decode [0x8B, 0xC6] = .ok (.shiftRight 11 12, []) ∧ encode (.shiftRight 11 12) = 0x8BC6 := by decide

theorem test_decode_sub_reverse : decode [0x8D, 0xE7] = .ok (.subReverse 13 14, []) ∧ encode (.subReverse 13 14) = 0x8DE7 := by decide

theorem test_decode_shift_left : decode [0x83, 0x0E] = .ok (.shiftLeft 3 0, []) ∧ encode (.shiftLeft 3 0) = 0x830E := by decide

theorem test_decode_skip_if_registers_not_equal : decode [0x91, 0x20] = .ok (.skipIfRegistersNotEqual 1 2, []) ∧ encode (.skipIfRegistersNotEqual 1 2) = 0x9120 := by decide

theorem test_decode_set_index : decode [0xA2, 0xF0] = .ok (.setIndex 0x2F0, []) ∧ encode (.setIndex 0x2F0) = 0xA2F0 := by decide

theorem test_decode_jump_with_offset : decode [0xB3, 0x00] = .ok (.jumpWithOffset 0x300, []) ∧ encode (.jumpWithOffset 0x300) = 0xB300 := by decide

theorem test_decode_random_and : decode [0xC3, 0x0F] = .ok (.randomAnd 3 0x0F, []) ∧ encode (.randomAnd 3 0x0F) = 0xC30F := by decide

theorem test_decode_draw_sprite : decode [0xD1, 0x25] = .ok (.drawSprite 1 2 5, []) ∧ encode (.drawSprite 1 2 5) = 0xD125 := by decide

theorem test_decode_skip_if_key_down : decode [0xE3, 0x9E] = .ok (.skipIfKeyDown 3, []) ∧ encode (.skipIfKeyDown 3) = 0xE39E := by decide

theorem test_decode_skip_if_key_up : decode [0xE4, 0xA1] = .ok (.skipIfKeyUp 4, []) ∧ encode (.skipIfKeyUp 4) = 0xE4A1 := by decide

theorem test_decode_get_delay_timer : decode [0xF4, 0x07] = .ok (.getDelayTimer 4, []) ∧ encode (.getDelayTimer 4) = 0xF407 := by decide

theorem test_decode_wait_for_key : decode [0xF5, 0x0A] = .ok (.waitForKey 5, []) ∧ encode (.waitForKey 5) = 0xF50A := by decide

theorem test_decode_set_delay_timer : decode [0xF6, 0x15] = .ok (.setDelayTimer 6, []) ∧ encode (.setDelayTimer 6) = 0xF615 := by decide

theorem test_decode_set_sound_timer : decode [0xF7, 0x18] = .ok (.setSoundTimer 7, []) ∧ encode (.setSoundTimer 7) = 0xF718 := by decide

theorem test_decode_add_to_index : decode [0xF8, 0x1E] = .ok (.addToIndex 8, []) ∧ encode (.addToIndex 8) = 0xF81E := by decide

theorem test_decode_load_glyph_address : decode [0xF9, 0x29] = .ok (.loadGlyphAddress 9, []) ∧ encode (.loadGlyphAddress 9) = 0xF929 := by decide

theorem test_decode_store_bcd : decode [0xFA, 0x33] = .ok (.storeBcd 10, []) ∧ encode (.storeBcd 10) = 0xFA33 := by decide

theorem test_decode_store_registers : decode [0xFB, 0x55] = .ok (.storeRegisters 11, []) ∧ encode (.storeRegisters 11) = 0xFB55 := by decide

theorem test_decode_load_registers : decode [0xFC, 0x65] = .ok (.loadRegisters 12, []) ∧ encode (.loadRegisters 12) = 0xFC65 := by decide

/-- R78: one word of each unrecognised group. -/
theorem test_unrecognised_words :
    decode [0x01, 0xE0] = .error .group0 ∧ decode [0x51, 0x21] = .error .group5 ∧
      decode [0x81, 0x2F] = .error .group8 ∧ decode [0x91, 0x21] = .error .group9 ∧
      decode [0xE0, 0x9F] = .error .groupE ∧ decode [0xF1, 0x75] = .error .groupF ∧
      decode [0x12] = .error .truncated := by decide

/-- The host's table word: bits numbered from the least significant bit of the first word. -/
theorem test_table_word : decodeTableWord 16 0xD125 = some (.drawSprite 1 2 5) ∧
    decodeTableWord 16 0x0000 = none := by decide

/-! ## Single Steps, from 95_test_vectors.md -/

/-- T1 -/
theorem test_return_pops_newest : after (probe 0x00EE (State.reset.setStack [0x300, 0x204]))
    (fun t => decide (t.pc = 0x300 ∧ t.stack = [0x204])) = true := by decide

/-- T2 -/
theorem test_return_on_empty_stack : after (probe 0x00EE State.reset)
    (fun t => decide (t.pc = 0x202 ∧ t.stack = [])) = true := by decide

/-- T4 -/
theorem test_jump_to_top : after (probe 0x1FFF State.reset)
    (fun t => decide (t.pc = 0xFFF ∧ t.fault = none)) = true := by decide

/-- T8 -/
theorem test_call_at_last_word : after (probe 0x2200 (State.reset.setPc 0xFFE))
    (fun t => decide (t.pc = 0x200 ∧ t.stack = [0x1000])) = true := by decide

/-- T9 -/
theorem test_call_on_full_stack : after (probe 0x2300 (depth 2 (State.reset.setStack [0x202, 0x202])))
    (fun t => decide (t.pc = 0x200 ∧ t.stack = [0x202, 0x202] ∧ t.fault = some ⟨.stackOverflowFault, 0x200, 0x300⟩)) = true := by decide

/-- T12 -/
theorem test_jump_with_offset_unmasked : after (probe 0xBFFF (State.reset.setV 0 0xFF))
    (fun t => decide (t.pc = 0x10FE)) = true := by decide

/-- T13 -/
theorem test_jump_with_offset_uses_v0 : after (probe 0xB300 ((State.reset.setV 0 2).setV 3 0x40))
    (fun t => decide (t.pc = 0x302)) = true := by decide

/-- T14 -/
theorem test_skip_if_equal_taken : after (probe 0x3A05 (State.reset.setV 10 5))
    (fun t => decide (t.pc = 0x204)) = true := by decide

/-- T16 -/
theorem test_skip_if_equal_at_top : after (probe 0x3000 (State.reset.setPc 0xFFE))
    (fun t => decide (t.pc = 0x1002 ∧ t.fault = none)) = true := by decide

/-- T17 -/
theorem test_skip_if_not_equal : after (probe 0x4A05 (State.reset.setV 10 6))
    (fun t => decide (t.pc = 0x204)) = true := by decide

/-- T19 -/
theorem test_skip_if_registers_equal : after (probe 0x5120 ((State.reset.setV 1 7).setV 2 7))
    (fun t => decide (t.pc = 0x204)) = true := by decide

/-- T23 -/
theorem test_skip_if_registers_not_equal : after (probe 0x9120 ((State.reset.setV 1 7).setV 2 8))
    (fun t => decide (t.pc = 0x204)) = true := by decide

/-- T27 -/
theorem test_set_vf : after (probe 0x6F2A State.reset)
    (fun t => decide (t.getV 15 = 0x2A ∧ t.pc = 0x202)) = true := by decide

/-- T28 -/
theorem test_add_immediate_no_flag : after (probe 0x7105 ((State.reset.setV 1 0xFE).setV 15 1))
    (fun t => decide (t.getV 1 = 3 ∧ t.getV 15 = 1)) = true := by decide

/-- T31 -/
theorem test_copy : after (probe 0x8120 (State.reset.setV 2 0x77))
    (fun t => decide (t.getV 1 = 0x77 ∧ t.getV 2 = 0x77)) = true := by decide

/-- T32 -/
theorem test_or_keeps_flag : after (probe 0x8121 (((State.reset.setV 1 0xF0).setV 2 0x0F).setV 15 1))
    (fun t => decide (t.getV 1 = 0xFF ∧ t.getV 15 = 1)) = true := by decide

/-- T33 -/
theorem test_and_keeps_flag : after (probe 0x8122 (((State.reset.setV 1 0xF0).setV 2 0x3C).setV 15 1))
    (fun t => decide (t.getV 1 = 0x30 ∧ t.getV 15 = 1)) = true := by decide

/-- T34 -/
theorem test_xor_keeps_flag : after (probe 0x8123 (((State.reset.setV 1 0xF0).setV 2 0x3C).setV 15 1))
    (fun t => decide (t.getV 1 = 0xCC ∧ t.getV 15 = 1)) = true := by decide

/-- T36 -/
theorem test_add_carries : after (probe 0x8124 ((State.reset.setV 1 0xFA).setV 2 0x0A))
    (fun t => decide (t.getV 1 = 4 ∧ t.getV 15 = 1)) = true := by decide

/-- T42 -/
theorem test_add_into_vf_keeps_flag : after (probe 0x8F14 ((State.reset.setV 15 3).setV 1 4))
    (fun t => decide (t.getV 15 = 0)) = true := by decide

/-- T46 -/
theorem test_sub_wraps : after (probe 0x8125 (((State.reset.setV 1 5).setV 2 10).setV 15 1))
    (fun t => decide (t.getV 1 = 0xFB ∧ t.getV 15 = 0)) = true := by decide

/-- T48 -/
theorem test_sub_of_equals : after (probe 0x8125 (((State.reset.setV 1 7).setV 2 7).setV 15 1))
    (fun t => decide (t.getV 1 = 0 ∧ t.getV 15 = 0)) = true := by decide

/-- T53 -/
theorem test_shift_right_ignores_y : after (probe 0x8126 (((State.reset.setV 1 4).setV 2 0xFF).setV 15 1))
    (fun t => decide (t.getV 1 = 2 ∧ t.getV 2 = 0xFF ∧ t.getV 15 = 0)) = true := by decide

/-- T54 -/
theorem test_shift_right_vf : after (probe 0x8F06 (State.reset.setV 15 5))
    (fun t => decide (t.getV 15 = 2)) = true := by decide

/-- T56 -/
theorem test_sub_reverse : after (probe 0x8127 ((State.reset.setV 1 5).setV 2 10))
    (fun t => decide (t.getV 1 = 5 ∧ t.getV 15 = 1)) = true := by decide

/-- T60 -/
theorem test_sub_reverse_from_vf : after (probe 0x81F7 ((State.reset.setV 1 2).setV 15 5))
    (fun t => decide (t.getV 1 = 3 ∧ t.getV 15 = 1)) = true := by decide

/-- T61 -/
theorem test_shift_left : after (probe 0x810E (State.reset.setV 1 0x81))
    (fun t => decide (t.getV 1 = 2 ∧ t.getV 15 = 1)) = true := by decide

/-- T64 -/
theorem test_shift_left_vf : after (probe 0x8F0E (State.reset.setV 15 0x81))
    (fun t => decide (t.getV 15 = 2)) = true := by decide

/-- T65 -/
theorem test_random_and_masks : after (probe 0xC30F { (State.reset.setV 3 0xFF) with rndIn := [0xA7] })
    (fun t => decide (t.getV 3 = 7 ∧ t.rndIn = [])) = true := by decide

/-- T67 -/
theorem test_random_and_zero_mask : after (probe 0xC300 (State.reset.setV 3 0x55))
    (fun t => decide (t.pc = 0x202 ∧ t.rndCount = 1)) = true := by decide

/-- T70 -/
theorem test_set_index : after (probe 0xA2F0 State.reset)
    (fun t => decide (t.index = 0x2F0)) = true := by decide

/-- T73 -/
theorem test_add_to_index_wraps : after (probe 0xF31E ((State.reset.setV 3 2).setIndex 0xFFFF))
    (fun t => decide (t.index = 1 ∧ t.getV 15 = 0)) = true := by decide

/-- T77 -/
theorem test_load_glyph_address : after (probe 0xF229 (State.reset.setV 2 15))
    (fun t => decide (t.index = 0x4B)) = true := by decide

/-- T78 -/
theorem test_load_glyph_address_range : after (probe 0xF229 ((State.reset.setV 2 0x10).setIndex 0x123))
    (fun t => decide (t.index = 0x123 ∧ t.pc = 0x200 ∧ t.fault = some ⟨.operandRangeFault, 0x200, 0x10⟩)) = true := by decide

/-- T79 -/
theorem test_store_bcd : after (probe 0xF533 ((State.reset.setV 5 0x9C).setIndex 0x300))
    (fun t => decide (t.mem = [(0x200, 0xF5), (0x201, 0x33), (0x300, 1), (0x301, 5), (0x302, 6)])) = true := by decide

/-- T84 -/
theorem test_store_bcd_outside : after (probe 0xF533 ((State.reset.setV 5 0x9C).setIndex 0x1234))
    (fun t => decide (t.fault = some ⟨.dataAddressFault, 0x200, 0x1234⟩ ∧ t.readByte 0x1234 = 0)) = true := by decide

/-- T87 -/
theorem test_store_registers_to_top : after (probe 0xFF55 ((((State.reset.setV 0 1).setV 14 14).setV 15 15).setIndex 0xFF0))
    (fun t => decide (t.readByte 0xFF0 = 1 ∧ t.readByte 0xFFE = 14 ∧ t.readByte 0xFFF = 15 ∧ t.index = 0xFF0)) = true := by decide

/-- T88 -/
theorem test_store_registers_outside : after (probe 0xFF55 ((State.reset.setV 0 1).setIndex 0xFF1))
    (fun t => decide (t.readByte 0xFF1 = 0 ∧ t.fault = some ⟨.dataAddressFault, 0x200, 0x1000⟩)) = true := by decide

/-- T94 -/
theorem test_load_registers_own_word : after (probe 0xF165 (State.reset.setIndex 0x200))
    (fun t => decide (t.getV 0 = 0xF1 ∧ t.getV 1 = 0x65 ∧ t.getV 2 = 0)) = true := by decide

/-- T93 -/
theorem test_load_registers_outside : after (probe 0xF165 ((State.reset.setV 0 0x55).setIndex 0xFFF))
    (fun t => decide (t.getV 0 = 0x55 ∧ t.fault = some ⟨.dataAddressFault, 0x200, 0x1000⟩)) = true := by decide

/-- E2 -/
theorem test_clear_display : after (probe 0x00E0 ((lit 31 63).setV 15 1))
    (fun t => decide (t.fb = blankDisplay ∧ t.getV 15 = 1)) = true := by decide

/-- T99 -/
theorem test_draw_clips_right : after (probe 0xD011 (poke 0x300 0xFF (((State.reset.setV 0 0x3F).setV 1 0x1F).setIndex 0x300)))
    (fun t => decide (pixel t.fb 31 63 = true ∧ pixel t.fb 31 0 = false ∧ t.getV 15 = 0)) = true := by decide

/-- T103 -/
theorem test_draw_collides : after (probe 0xD011 ((lit 0 0).setIndex 0))
    (fun t => decide (pixel t.fb 0 0 = false ∧ pixel t.fb 0 3 = true ∧ t.getV 15 = 1)) = true := by decide

/-- T112 -/
theorem test_skip_if_key_down : after (probe 0xE39E ((withKeys [10]).setV 3 10))
    (fun t => decide (t.pc = 0x204)) = true := by decide

/-- T114 -/
theorem test_skip_if_key_down_range : after (probe 0xE39E ((withKeys [0]).setV 3 16))
    (fun t => decide (t.pc = 0x200 ∧ t.fault = some ⟨.operandRangeFault, 0x200, 0x10⟩)) = true := by decide

/-- T116 -/
theorem test_skip_if_key_up : after (probe 0xE3A1 ((withKeys [10]).setV 3 10))
    (fun t => decide (t.pc = 0x202)) = true := by decide

/-- T117 -/
theorem test_skip_if_key_up_range : after (probe 0xE3A1 (State.reset.setV 3 0xFF))
    (fun t => decide (t.fault = some ⟨.operandRangeFault, 0x200, 0xFF⟩)) = true := by decide

/-- T118 -/
theorem test_get_delay_timer : after (probe 0xF407 (State.reset.setDt 9))
    (fun t => decide (t.getV 4 = 9 ∧ t.dt = 8)) = true := by decide

/-- T121 -/
theorem test_wait_for_key_stalls : after (probe 0xF50A ((((State.reset.setV 5 0x77).setPc 0x210).setDt 2).setSt 1))
    (fun t => decide (t.pc = 0x210 ∧ t.dt = 1 ∧ t.st = 0 ∧ t.getV 5 = 0x77)) = true := by decide

/-- T122 -/
theorem test_wait_for_key_lowest : after (probe 0xF50A ((withKeys [7, 3]).setV 5 0x77))
    (fun t => decide (t.getV 5 = 3 ∧ t.pc = 0x202)) = true := by decide

/-- T125 -/
theorem test_set_delay_timer : after (probe 0xF615 (State.reset.setV 6 0x3C))
    (fun t => decide (t.dt = 0x3B)) = true := by decide

/-- T130 -/
theorem test_set_sound_timer : after (probe 0xF718 (State.reset.setV 7 1))
    (fun t => decide (t.st = 0 ∧ audioOut t = false)) = true := by decide

/-- T133 -/
theorem test_no_op : after (probe 0x0123 (((State.reset.setV 15 1).setDt 3).setStack [0x222]))
    (fun t => decide (t.pc = 0x202 ∧ t.dt = 2 ∧ t.stack = [0x222] ∧ t.getV 15 = 1)) = true := by decide

/-- T142 -/
theorem test_halted : after (probe 0x6A2A faulted)
    (fun t => decide (t.pc = 0x200 ∧ t.getV 10 = 0 ∧ t.dt = 5)) = true := by decide

/-- T5 -/
theorem test_fetch_fault : after (State.reset.setPc 0xFFF)
    (fun t => decide (t.pc = 0xFFF ∧ t.fault = some ⟨.fetchFault, 0xFFF, 0xFFF⟩)) = true := by decide

/-- L1 -/
theorem test_load : (hostLoad [0x12, 0x34, 0x56] State.reset).mem =
    [(0x200, 0x12), (0x201, 0x34), (0x202, 0x56)] := by decide

/-- A core whose glyph bytes are not the default ones. -/
def otherGlyphs : State := State.resetWith (Vector.replicate 80 0xFF) (.limit 16)

/-- L6 with another GLYPH (R47, R170): Reset brings back the core's own glyph bytes, whatever a
program wrote over them, and zeroes the rest. -/
theorem test_reset_restores_own_glyphs :
    (hostReset (poke 0x300 7 (poke 0 1 otherGlyphs))).readByte 0 = 0xFF ∧
      (hostReset (poke 0x300 7 (poke 0 1 otherGlyphs))).readByte 0x300 = 0 ∧
      (hostReset faulted).fault = none := by decide

/-- L7 -/
theorem test_set_input : (hostSetInput (keysOfPort 0x8001) (withKeys [3])).keys =
    (withKeys [0, 15]).keys := by decide

/-- The example of R83, laid out by the assembler of R81 and R82 from 0x200; P6b's label. -/
theorem test_assemble :
    assemble [.instr (.addRegs 1 2), .org 0x300, .label "self", .addr .call "self", .dw 0x1234] =
      some [(0x200, 0x81), (0x201, 0x24), (0x300, 0x23), (0x301, 0x00), (0x302, 0x12), (0x303, 0x34)] := by
  decide

/-- R81: the spec's own lines. -/
theorem test_text : (instrText (.addRegs 1 2), instrText (.storeRegisters 4)) =
    ("add V1, V2", "store-registers V4") := by decide

/-! ## Witnesses: for every statement with hypotheses, a case that meets them all -/

/-- The state whose next Step runs `set VA, 0x2A`. -/
def ready : State := probe 0x6A2A State.reset

theorem runs_of (s : State) (w : Word) (i : Instr) (hf : s.fault = none) (hp : s.pc.toNat ≤ 0xFFE)
    (hw : w.toNat = 256 * (s.readByte s.pc.toNat).toNat + (s.readByte (s.pc.toNat + 1)).toNat)
    (hd : decodeWord w = .ok i) : Runs s i := ⟨w, ⟨hf, hp, hw⟩, hd⟩

theorem next_meets {a : Answer} {q : State → Prop} [DecidablePred q]
    (h : meets a (fun t => decide (q t)) = true) : ∃ t, a = .next t ∧ q t := by
  unfold meets at h
  split at h
  · exact ⟨_, rfl, of_decide_eq_true h⟩
  · cases h

theorem next_exists {a : Answer} (h : meets a (fun _ => true) = true) : ∃ t, a = .next t := by
  unfold meets at h
  split at h
  · exact ⟨_, rfl⟩
  · cases h

theorem reset_meets : StateInv State.reset where
  mem := rfl
  pc := by decide
  entries := by simp [State.reset]
  depth := trivial
  positive := rfl
  latch := by simp [State.reset]

theorem witness_EncodeOfDecodeIsIdentity : decodeWord 0x8124 = .ok (.addRegs 1 2) := by decide

theorem witness_DecoderFollowsOpcodeMap :
    (∃ i, decodeWord 0xD125 = .ok i) ∧ (∃ e, decodeWord 0xF175 = .error e) :=
  ⟨⟨.drawSprite 1 2 5, by decide⟩, ⟨.groupF, by decide⟩⟩

theorem witness_RejectedWordsAreTheListedGroups :
    Unrecognised 0x0000 ∧ Unrecognised 0x5121 ∧ Unrecognised 0x8128 ∧ Unrecognised 0x812F ∧
      Unrecognised 0x9121 ∧ Unrecognised 0xE09F ∧ Unrecognised 0xFFFF ∧ ¬ Unrecognised 0x00E0 := by
  simp [Unrecognised]

theorem witness_StepRunsTheDecodedInstruction :
    (ready.fault = none ∧ ready.pc.toNat ≤ 0xFFE ∧
      decode [ready.readByte ready.pc.toNat, ready.readByte (ready.pc.toNat + 1)] =
        .ok (.set 10 0x2A, []) ∧
      ∃ t, exec (.set 10 0x2A) { ready with pc := ready.pc + 2 } = .next t ∧ t.fault = none) ∧
    (let s := probe 0xF029 (State.reset.setV 0 16)
     s.fault = none ∧ s.pc.toNat ≤ 0xFFE ∧
      decode [s.readByte s.pc.toNat, s.readByte (s.pc.toNat + 1)] = .ok (.loadGlyphAddress 0, []) ∧
      ∃ t, exec (.loadGlyphAddress 0) { s with pc := s.pc + 2 } = .next t ∧ t.fault ≠ none) :=
  ⟨⟨rfl, by decide, by decide, _, rfl, rfl⟩, rfl, by decide, by decide, next_meets (by decide)⟩

theorem witness_UnrecognisedWordIsNoOp :
    Fetches (probe 0x0123 (State.reset.setPc 0xFFE)) 0x0123 ∧ Unrecognised 0x0123 :=
  ⟨⟨rfl, by decide, by decide⟩, by simp [Unrecognised]⟩

theorem witness_HaltedCoreNeverChanges : faulted.fault ≠ none := by decide

theorem witness_FetchOutsideMemoryFaults :
    (State.reset.setPc 0xFFF).fault = none ∧ 0xFFE < (State.reset.setPc 0xFFF).pc.toNat := by decide

theorem witness_TimersCountOncePerStep :
    (ready.fault = none ∧ Runs ready (.set 10 0x2A) ∧ ∃ t, step ready = .next t ∧ t.fault = none) ∧
    ((∃ t, step (State.reset.setPc 0xFFF) = .next t ∧ t.fault ≠ none) ∧
      State.reset.fault = none ∧ (∃ t, step State.reset = .next t ∧ t.fault = none) ∧
      ∀ i, ¬ Runs State.reset i) :=
  ⟨⟨rfl, runs_of _ 0x6A2A _ rfl (by decide) (by decide) (by decide), next_meets (by decide)⟩,
    next_meets (by decide), rfl, next_meets (by decide), by
      rintro i ⟨w, ⟨_, _, hw⟩, hd⟩
      have : w = 0 := BitVec.eq_of_toNat_eq (hw.trans (by decide))
      subst this
      exact absurd (hd.symm.trans (show decodeWord 0 = .error .group0 by decide)) (by simp)⟩

theorem witness_NetChangeOfPc :
    ready.fault = none ∧ Runs ready (.set 10 0x2A) ∧ ∃ t, step ready = .next t ∧ t.fault = none :=
  ⟨rfl, runs_of _ 0x6A2A _ rfl (by decide) (by decide) (by decide), next_meets (by decide)⟩

theorem witness_PlacedWordIsFetched : State.reset.fault = none ∧
    (State.reset.setPc 0xFFE).pc.toNat ≤ 0xFFE ∧ Memory.wf (State.reset.setPc 0xFFE).mem = true := by
  decide

theorem witness_DispatchFaultsExactlyAsTabled :
    faultOf (.call 0x300) (depth 1 (State.reset.setStack [0x202])) =
      some (.stackOverflowFault, 0x300) ∧
    faultOf (.drawSprite 0 0 2) (State.reset.setIndex 0xFFF) = some (.dataAddressFault, 0x1000) ∧
    faultOf (.drawSprite 0 0 1) (State.reset.setIndex 0xFFF) = none ∧
    faultOf (.storeBcd 0) (State.reset.setIndex 0xFFE) = some (.dataAddressFault, 0x1000) ∧
    faultOf (.loadRegisters 15) (State.reset.setIndex 0x1234) = some (.dataAddressFault, 0x1234) ∧
    faultOf (.skipIfKeyDown 3) (State.reset.setV 3 16) = some (.operandRangeFault, 16) ∧
    faultOf (.skipIfKeyUp 3) (State.reset.setV 3 15) = none := by decide

theorem witness_FaultsArePrecise :
    (∃ t, step (State.reset.setPc 0x10FE) = .next t ∧ t.fault ≠ none) ∧
    (∃ t, step (probe 0xF033 (State.reset.setIndex 0xFFE)) = .next t ∧ t.fault ≠ none) :=
  ⟨next_meets (by decide), next_meets (by decide)⟩

theorem witness_StepKeepsInvariant : StateInv State.reset ∧ ∃ t, step State.reset = .next t :=
  ⟨reset_meets, next_exists (by decide)⟩

theorem witness_HostSequencesKeepInvariant : StateInv State.reset ∧
    ∃ t, runEvents [.load [0x6A, 0x2A], .setInput (withKeys [3]).keys, .step 0, .reset]
      State.reset = .next t :=
  ⟨reset_meets, next_exists (by decide)⟩

theorem witness_OperationsWriteOnlyTheirParts :
    (∃ t, exec (.storeRegisters 2) (State.reset.setIndex 0x300) = .next t) ∧
      ∃ t, exec (.waitForKey 1) State.reset = .next t :=
  ⟨⟨_, rfl⟩, _, rfl⟩

theorem witness_OperationsWriteOnlyTheirRegisters :
    (∃ t, exec (.loadRegisters 2) State.reset = .next t) ∧
      ∃ t, exec (.drawSprite 0 0 0) State.reset = .next t :=
  ⟨⟨_, rfl⟩, _, rfl⟩

theorem witness_OnlyRandomAndReadsTheRandomByte : ∀ x kk, ¬ Runs ready (.randomAnd x kk) := by
  rintro x kk ⟨w, ⟨_, _, hw⟩, hd⟩
  have : w = 0x6A2A := BitVec.eq_of_toNat_eq (hw.trans (by decide))
  subst this
  exact absurd (hd.symm.trans (show decodeWord 0x6A2A = .ok (.set 10 0x2A) by decide)) (by simp)

theorem witness_MemoryReadAfterWrite : Memory.wf [(0x300, 1)] = true ∧ 0xFFF ≤ 0xFFF := by decide

theorem witness_MemoryFormIsCanonical :
    Memory.wf (Memory.write [] 0x300 1) = true ∧ Memory.wf [(0x300, 1)] = true ∧
      ∀ a, Memory.read (Memory.write [] 0x300 1) a = Memory.read [(0x300, 1)] a :=
  ⟨by decide, by decide, fun _ => rfl⟩

theorem witness_CallPushesAndJumps :
    State.reset.stackDepth ≠ .limit State.reset.stack.length ∧
      (depth 1 State.reset).stackDepth ≠ .limit (depth 1 State.reset).stack.length := by decide

theorem witness_CallOnFullStackFaults :
    (depth 1 (State.reset.setStack [0x202])).stackDepth =
      .limit (depth 1 (State.reset.setStack [0x202])).stack.length := by decide

/-- The largest stack entry the invariant allows. -/
theorem one_entry_meets : StateInv (State.reset.setStack [0x1000]) where
  mem := rfl
  pc := by decide
  entries a ha := by
    cases ha with
    | head => decide
    | tail _ h => cases h
  depth := trivial
  positive := rfl
  latch r h := by
    have none_latched : (none : Option FaultRecord) = some r := h
    cases none_latched

theorem witness_ReturnPopsOrDoesNothing :
    (State.reset.setStack [0x300, 0x204]).stack = 0x300 :: [0x204] ∧ State.reset.stack = [] ∧
      ((State.reset.setStack [0x1000]).stack = 0x1000 :: [] ∧
        StateInv (State.reset.setStack [0x1000])) :=
  ⟨rfl, rfl, rfl, one_entry_meets⟩

theorem witness_NestedCallsUnwind :
    StackFits (depth 2 State.reset).stackDepth
      ((depth 2 State.reset).stack.length + [(0x300 : Addr), 0x400].length) := by
  show 2 ≤ 2
  decide

theorem witness_RegisterSkips :
    (State.reset.setV 1 7).getV 1 = 7 ∧ (State.reset.setV 1 7).getV 1 ≠ (State.reset.setV 1 7).getV 2 := by
  decide

theorem witness_RandomAndMasksTheDrawnByte :
    (0x0F : Byte).getLsbD 7 = false ∧ ({ State.reset with rndIn := [0xA7] } : State).rndIn = 0xA7 :: [] ∧
      State.reset.rndIn = [] := by decide

theorem witness_RandomAndUsesTheByteOfTheStep : Runs (probe 0xC30F State.reset) (.randomAnd 3 0x0F) :=
  runs_of _ 0xC30F _ rfl (by decide) (by decide) (by decide)

theorem witness_LoadGlyphAddressIsFiveTimesDigit :
    ((State.reset.setV 2 15).getV 2).toNat ≤ 15 ∧ 15 < ((State.reset.setV 2 16).getV 2).toNat := by decide

theorem witness_StoreBcdWritesThreeDigits :
    (State.reset.setIndex 0xFFD).index.toNat + 2 ≤ 0xFFF ∧
      Memory.wf (State.reset.setIndex 0xFFD).mem = true ∧
      0xFFF < (State.reset.setIndex 0xFFE).index.toNat + 2 := by decide

theorem witness_StoreRegistersCopiesTheBlock :
    (State.reset.setIndex 0xFF0).index.toNat + (15 : Reg).val ≤ 0xFFF ∧
      Memory.wf (State.reset.setIndex 0xFF0).mem = true ∧
      0xFFF < (State.reset.setIndex 0xFF1).index.toNat + (15 : Reg).val := by decide

theorem witness_LoadRegistersCopiesTheBlock :
    (State.reset.setIndex 0xFFF).index.toNat + (0 : Reg).val ≤ 0xFFF ∧
      0xFFF < (State.reset.setIndex 0xFFF).index.toNat + (1 : Reg).val := by decide

/-- A draw of one byte 0x80 from 0xFFF, row 31 (the boundary of readable rows). -/
def corner : State := poke 0xFFF 0x80 (((State.reset.setIndex 0xFFF).setV 1 31).setV 0 63)

/-- Sprite rows past the bottom edge are not read: five rows from 0xFFF at row 31 are readable. -/
theorem corner_readable : SpriteReadable corner 1 5 := .inr (by decide)

theorem witness_DrawSpriteXorsThePixels :
    SpriteReadable corner 1 5 ∧ SpriteReadable (State.reset.setIndex 0x1000) 0 0 ∧
    (∃ (r : Fin 32) (c : Fin 64), (corner.setFb (togglePixel blankDisplay 31 63)).fb[r.val][c.val] = true ∧
      spriteBit (corner.setFb (togglePixel blankDisplay 31 63)) 0 1 5 r.val c.val = true) ∧
    (∀ (r : Fin 32) (c : Fin 64), corner.fb[r.val][c.val] = true →
      spriteBit corner 0 1 5 r.val c.val = false) :=
  ⟨corner_readable, .inl rfl, ⟨31, 63, by decide, by decide⟩, fun r c h => by
    have : corner.fb = blankDisplay := rfl
    have : corner.fb[r.val][c.val] = false := by
      simp [this, blankDisplay]
    rw [this] at h
    cases h⟩

theorem witness_DrawSpriteOutsideMemoryFaults :
    ¬ SpriteReadable (State.reset.setIndex 0xFFF) 0 2 := by
  rintro (h | h) <;> revert h <;> decide

theorem witness_DrawingTwiceRestoresTheDisplay :
    (SpriteReadable corner 1 5 ∧ ∃ t, exec (.drawSprite 0 1 5) corner = .next t ∧
      (t.getV 0).toNat % 64 = (corner.getV 0).toNat % 64 ∧
      (t.getV 1).toNat % 32 = (corner.getV 1).toNat % 32) ∧
    (∃ (r : Fin 32) (c : Fin 64), corner.fb[r.val][c.val] = false ∧
      spriteBit corner 0 1 5 r.val c.val = true) ∧
    (SpriteReadable State.reset 1 0 ∧ (∃ t, exec (.drawSprite 0 1 0) State.reset = .next t ∧
      (t.getV 0).toNat % 64 = (State.reset.getV 0).toNat % 64 ∧
      (t.getV 1).toNat % 32 = (State.reset.getV 1).toNat % 32) ∧
      ∀ (r : Fin 32) (c : Fin 64), spriteBit State.reset 0 1 0 r.val c.val = true →
        State.reset.fb[r.val][c.val] = true) :=
  ⟨⟨corner_readable, next_meets (by decide)⟩,
    ⟨31, 63, by decide, by decide⟩, .inl rfl,
    next_meets (by decide), fun r c h => by
      simp [spriteBit, State.reset, State.getV] at h⟩

theorem witness_KeySkips :
    ((State.reset.setV 3 15).getV 3).toNat = (15 : Reg).val ∧
      15 < ((State.reset.setV 3 16).getV 3).toNat ∧
      Instr.skipIfKeyUp 3 ∈ [Instr.skipIfKeyDown 3, Instr.skipIfKeyUp 3] := by decide

theorem witness_WaitForKeyTakesLowestOrRewinds :
    IsLowestKey (withKeys [15]) 15 ∧ IsLowestKey (withKeys [0, 3]) 0 ∧ NoKeyDown State.reset :=
  ⟨⟨by decide, by decide⟩, ⟨by decide, by decide⟩, by
    intro k
    simp [State.reset]⟩

theorem witness_WaitForKeyTakesLowestOrRewinds_step :
    Runs (probe 0xF50A State.reset) (.waitForKey 5) ∧ NoKeyDown (probe 0xF50A State.reset) :=
  ⟨runs_of _ 0xF50A _ rfl (by decide) (by decide) (by decide), by
    have keys_up : (probe 0xF50A State.reset).keys = Vector.replicate 16 false := rfl
    intro k
    simp [keys_up]⟩

theorem witness_GetDelayTimerReadsBeforeTheCount :
    Runs (probe 0xF407 (State.reset.setDt 9)) (.getDelayTimer 4) :=
  runs_of _ 0xF407 _ rfl (by decide) (by decide) (by decide)

theorem witness_TimerWritesCountInTheSameStep :
    Runs (probe 0xF615 State.reset) (.setDelayTimer 6) ∧
      Runs (probe 0xF618 State.reset) (.setSoundTimer 6) :=
  ⟨runs_of _ 0xF615 _ rfl (by decide) (by decide) (by decide),
    runs_of _ 0xF618 _ rfl (by decide) (by decide) (by decide)⟩

theorem witness_ResetStateIsAsTabled : 80 ≤ 80 ∧ (79 : Fin 80).val < 80 := by decide

theorem witness_ResetMeetsInvariant :
    StackDepth.wellFormed .unbounded = true ∧ StackDepth.wellFormed (.limit 1) = true := by decide

theorem witness_ResetGivesTheSameStateEachTime :
    ∃ t, runEvents [.load [0x6A, 0x2A], .setInput (withKeys [3]).keys, .step 0] otherGlyphs = .next t :=
  next_exists (by decide)

theorem witness_LoadCopiesAndTruncates :
    Memory.wf State.reset.mem = true ∧ (List.replicate 3586 (7 : Byte))[3583]? = some 7 ∧ 3583 < 3584 ∧
      (0x1FF < 0x200 ∨ 0x200 + 3586 ≤ 0x1FF ∨ 0xFFF < 0x1FF) ∧
      (0x1000 < 0x200 ∨ 0x200 + 3586 ≤ 0x1000 ∨ 0xFFF < 0x1000) :=
  ⟨rfl, by simp, by decide, .inl (by decide), .inr (.inr (by decide))⟩

end Sys2Proof.Tests
end

section
/-! PROOF. The Step joined to the dispatch of the word it fetches, and how each operation leaves `PC`
over one whole Step (10_state.md R29). -/

namespace Sys2Proof.Proofs

open Sys2Proof.Machine Sys2Proof.Safety

/-! ## The Step and the fetched word -/

/-- A Step fetches at most one word. -/
theorem fetches_unique {s : State} {w w' : Word} (h : Fetches s w) (h' : Fetches s w') : w = w' := by
  obtain ⟨-, -, hw⟩ := h
  obtain ⟨-, -, hw'⟩ := h'
  exact BitVec.eq_of_toNat_eq (hw.trans hw'.symm)

/-- The end of a Step keeps the next state dispatch answered, or counts its timers. -/
theorem endStep_next {a : Answer} {t : State} (h : endStep a = .next t) :
    ∃ u, a = .next u ∧ t = if u.halted then u else tickTimers u := by
  cases a with
  | next u => exact ⟨u, rfl, by cases h; rfl⟩
  | fault r => cases h
  | refused r => cases h

/-- A Step that begins and ends with no fault fetched a word, whose dispatch raised none, and then
counted the timers. -/
theorem step_completes {s t : State} (hs : s.fault = none) (h : step s = .next t)
    (ht : t.fault = none) :
    ∃ w u, Fetches s w ∧ dispatchWord w s.advancePc = .next u ∧ u.fault = none ∧ t = tickTimers u := by
  obtain ⟨hf, -⟩ | ⟨-, -, hstep⟩ | ⟨-, hp, hstep⟩ := step_cases s
  · exact absurd hs hf
  · cases hstep.symm.trans h
    simp at ht
  · obtain ⟨u, hu, rfl⟩ := endStep_next (hstep.symm.trans h)
    have huf : u.fault = none := by
      split at ht <;> exact ht
    have running : u.halted = false := by simpa using huf
    exact ⟨_, u, ⟨hs, hp, append_toNat _ _⟩, hu, huf, by simp [running]⟩

/-- An operation's word is dispatched by its meaning. -/
theorem dispatchWord_ok {w : Word} {i : Instr} (h : decodeWord w = .ok i) (s : State) :
    dispatchWord w s = exec i s := by
  simp only [dispatchWord, h]

/-- An unrecognised word is dispatched as nothing (40_step_cycle.md R94). -/
theorem dispatchWord_error {w : Word} {r : DecodeReject} (h : decodeWord w = .error r) (s : State) :
    dispatchWord w s = .next s := by
  simp only [dispatchWord, h]

/-! ## Checked operations that raise no fault -/

/-- A block operation that raises no fault ran its body. -/
theorem withBlock_completes {last : Nat} {s u : State} {body : State → State}
    (h : withBlock last s body = .next u) (hu : u.fault = none) : u = body s := by
  by_cases hb : s.index.toNat + last ≤ 0xFFF
  · rw [withBlock_in last s body hb] at h
    cases h
    rfl
  · rw [withBlock_out last s body (by omega)] at h
    cases h
    simp at hu

/-- A digit operation that raises no fault ran its body with the digit in its register. -/
theorem withDigit_completes {x : Reg} {s u : State} {body : Reg → State → State}
    (h : withDigit x s body = .next u) (hu : u.fault = none) :
    ∃ hd : (s.getV x).toNat < 16, u = body ⟨(s.getV x).toNat, hd⟩ s := by
  by_cases hd : (s.getV x).toNat < 16
  · rw [withDigit_in x s body hd] at h
    cases h
    exact ⟨hd, rfl⟩
  · rw [withDigit_out x s body (by omega)] at h
    cases h
    simp at hu

/-- A draw that raises no fault is the draw with its flag, rows fetched or not. -/
theorem execDrawSprite_completes {x y : Reg} {n : Nibble} {s u : State}
    (h : execDrawSprite x y n s = .next u) (hu : u.fault = none) : u = drawAndFlag x y n s := by
  unfold execDrawSprite at h
  split at h
  · cases h
    rfl
  · exact withBlock_completes h hu

/-- A call that raises no fault pushed the advanced `PC` and jumped. -/
theorem execCall_completes {nnn : Addr} {s u : State}
    (h : execCall nnn s = .next u) (hu : u.fault = none) :
    u = (s.pushReturn s.pc).setPc (zext16 nnn) := by
  unfold execCall at h
  split at h
  · cases h
    simp at hu
  · cases h
    rfl

/-! ## Keys -/

/-- A key index in a register reads the snapshot as the spec's skips state it. -/
theorem keyDown_iff_exists (s : State) {d : Nat} (hd : d < 16) (b : Bool) :
    s.keyDown ⟨d, hd⟩ = b ↔ ∃ k : Reg, k.val = d ∧ s.keys[k.val] = b := by
  constructor
  · exact fun h => ⟨⟨d, hd⟩, rfl, h⟩
  · rintro ⟨k, rfl, h⟩
    exact h

/-- The search for the lowest key comes back empty exactly when no key is down. -/
theorem lowestKey_eq_none_iff (s : State) : lowestKey s = none ↔ NoKeyDown s := by
  refine ⟨lowestKey_none s, fun up => ?_⟩
  cases hk : lowestKey s with
  | none => rfl
  | some k => exact absurd ((lowestKey_some s k hk).1.symm.trans (up k)) (by decide)

/-! ## `PC` after dispatch -/

/-- The operations that leave `PC` where the fetch's advance put it: no control transfer, no skip, no
wait (10_state.md R29). -/
def keepsPc : Instr → Bool
  | .ret | .jump _ | .call _ | .jumpWithOffset _ | .waitForKey _
  | .skipIfEqual _ _ | .skipIfNotEqual _ _ | .skipIfRegistersEqual _ _
  | .skipIfRegistersNotEqual _ _ | .skipIfKeyDown _ | .skipIfKeyUp _ => false
  | _ => true

theorem exec_pc_of_keepsPc {i : Instr} {s u : State} (hi : keepsPc i = true)
    (h : exec i s = .next u) (hu : u.fault = none) : u.pc = s.pc := by
  cases i with
  | ret | jump | call | jumpWithOffset | waitForKey | skipIfEqual | skipIfNotEqual
  | skipIfRegistersEqual | skipIfRegistersNotEqual | skipIfKeyDown | skipIfKeyUp => cases hi
  | clearDisplay | set | addImmediate | copy | orRegs | andRegs | xorRegs | addRegs | subRegs
  | shiftRight | subReverse | shiftLeft | setIndex | getDelayTimer | setDelayTimer | setSoundTimer
  | addToIndex =>
    cases h
    rfl
  | randomAnd x kk =>
    cases h
    rw [State.setV_pc, consumeRnd_rest]
  | drawSprite x y n =>
    rw [execDrawSprite_completes h hu]
    rfl
  | loadGlyphAddress x =>
    simp only [exec, execLoadGlyphAddress] at h
    obtain ⟨_, rfl⟩ := withDigit_completes h hu
    rfl
  | storeBcd x | storeRegisters x =>
    simp only [exec, execStoreBcd, execStoreRegisters] at h
    rw [withBlock_completes h hu]
    rfl
  | loadRegisters x =>
    simp only [exec, execLoadRegisters] at h
    rw [withBlock_completes h hu, setBlock_rest]

/-- An operation that leaves `PC` alone in dispatch moves it by 2 over the Step. -/
theorem netPc_of_keepsPc {i : Instr} {s : State} {pc : Word} (hi : keepsPc i = true)
    (h : pc = s.pc + 2) : NetPc i s pc := by
  cases i with
  | ret | jump | call | jumpWithOffset | waitForKey | skipIfEqual | skipIfNotEqual
  | skipIfRegistersEqual | skipIfRegistersNotEqual | skipIfKeyDown | skipIfKeyUp => cases hi
  | _ => exact ⟨False.elim, fun _ => h⟩

/-- A skip over the Step: `PC` moves by 4 when its condition holds, else by 2. -/
theorem skipIf_advancePc_pc (s : State) {c : Bool} {P : Prop} (hc : c = true ↔ P) :
    (P → (s.advancePc.skipIf c).pc = s.pc + 4) ∧ (¬ P → (s.advancePc.skipIf c).pc = s.pc + 2) := by
  rw [skipIf_eq, State.setPc_pc, ← hc]
  constructor
  · intro taken
    rw [if_pos taken, State.advancePc_pc, BitVec.add_assoc]
    rfl
  · intro not_taken
    rw [if_neg not_taken, State.advancePc_pc]

/-- The target of jump-with-offset is the exact sum, not masked and not wrapped (41_flow.md R104). -/
@[simp] theorem offsetTarget_toNat (nnn : Addr) (s : State) :
    (offsetTarget nnn s).toNat = nnn.toNat + (s.getV 0).toNat := by
  have := nnn.isLt
  have := (s.getV 0).isLt
  rw [offsetTarget, BitVec.toNat_add, zext16_toNat, byteToWord_toNat]
  omega

/-- Return over the Step: the popped value, or the advance alone on an empty stack. -/
theorem execReturn_netPc {s u : State} (h : execReturn s.advancePc = .next u) :
    NetPc .ret s u.pc := by
  simp only [execReturn, State.advancePc_stack] at h
  simp only [NetPc]
  cases hs : s.stack with
  | nil | cons =>
    rw [hs] at h
    cases h
    rfl

/-- Wait-for-key over the Step: `PC` rewound with no key down, else the advance alone. -/
theorem execWaitForKey_netPc {x : Reg} {s u : State}
    (h : execWaitForKey x s.advancePc = .next u) : NetPc (.waitForKey x) s u.pc := by
  have none_iff : lowestKey s.advancePc = none ↔ NoKeyDown s := lowestKey_eq_none_iff s.advancePc
  unfold execWaitForKey at h
  simp only [NetPc, ← none_iff]
  cases hk : lowestKey s.advancePc with
  | none | some =>
    rw [hk] at h
    cases h
    simp

/-- Dispatch with `PC` advanced, raising no fault, leaves `PC` as the table of 10_state.md R29 says. -/
theorem exec_netPc {i : Instr} {s u : State} (h : exec i s.advancePc = .next u)
    (hu : u.fault = none) : NetPc i s u.pc := by
  by_cases hi : keepsPc i = true
  · exact netPc_of_keepsPc hi (exec_pc_of_keepsPc hi h hu)
  · cases i with
    | jump nnn =>
      cases h
      exact zext16_toNat nnn
    | call nnn =>
      rw [execCall_completes h hu]
      exact zext16_toNat nnn
    | jumpWithOffset nnn =>
      cases h
      exact offsetTarget_toNat nnn s
    | ret => exact execReturn_netPc h
    | waitForKey x => exact execWaitForKey_netPc h
    | skipIfEqual | skipIfNotEqual | skipIfRegistersEqual | skipIfRegistersNotEqual =>
      cases h
      exact skipIf_advancePc_pc s decide_eq_true_iff
    | skipIfKeyDown x =>
      simp only [exec, execSkipIfKeyDown] at h
      obtain ⟨hd, rfl⟩ := withDigit_completes h hu
      exact skipIf_advancePc_pc s (keyDown_iff_exists s hd true)
    | skipIfKeyUp x =>
      simp only [exec, execSkipIfKeyUp] at h
      obtain ⟨hd, rfl⟩ := withDigit_completes h hu
      exact skipIf_advancePc_pc s (by
        rw [Bool.not_eq_true']
        exact keyDown_iff_exists s hd false)
    | _ => exact absurd rfl hi

/-- Settles O13: a Step that raises no fault is one dispatch followed by the timers, which leave `PC`
alone, so each operation's dispatch gives the net change. -/
theorem netChangeOfPc : Obligations.NetChangeOfPc := by
  intro s t hs h ht
  obtain ⟨w, u, hw, hdispatch, hu, rfl⟩ := step_completes hs h ht
  refine ⟨?_, fun no_operation => ?_⟩
  · rintro i ⟨w', hw', hi⟩
    cases fetches_unique hw hw'
    have net : NetPc i s u.pc := exec_netPc ((dispatchWord_ok hi _).symm.trans hdispatch) hu
    exact net
  · cases hd : decodeWord w with
    | ok i => exact absurd ⟨w, hw, hd⟩ (no_operation i)
    | error r =>
      cases (dispatchWord_error hd _).symm.trans hdispatch
      rfl

end Sys2Proof.Proofs
end

section
/-! PROOF. The decoder on the unrecognised words (30_encoding.md R78), and the Step that fetches one
(40_step_cycle.md R94). -/

namespace Sys2Proof.Proofs

open Sys2Proof.Machine Sys2Proof.Safety

/-! ## The listed groups are rejected -/

/-- The leading nibble of a word, from the number its group is listed under. -/
theorem opField_eq {w : Word} {op : Nibble} (h : w.toNat / 0x1000 = op.toNat) : opField w = op :=
  BitVec.eq_of_toNat_eq ((opField_toNat w).trans h)

theorem decode8_rejects {n : Nibble} (x y : Reg) (h : n.toNat ∈ [8, 9, 0xA, 0xB, 0xC, 0xD, 0xF]) :
    decode8 x y n = .error .group8 := by
  unfold decode8
  split
  case h_10 => rfl
  all_goals exact absurd h (by decide)

theorem decodeE_rejects {kk : Byte} (x : Reg) (h : kk.toNat ∉ [0x9E, 0xA1]) :
    decodeE x kk = .error .groupE := by
  unfold decodeE
  split
  case h_3 => rfl
  all_goals exact absurd (by decide) h

theorem decodeF_rejects {kk : Byte} (x : Reg)
    (h : kk.toNat ∉ [0x07, 0x0A, 0x15, 0x18, 0x1E, 0x29, 0x33, 0x55, 0x65]) :
    decodeF x kk = .error .groupF := by
  unfold decodeF
  split
  case h_10 => rfl
  all_goals exact absurd (by decide) h

/-- A nonzero last nibble, as the two groups with a fixed zero there test it. -/
theorem nField_ne_zero {w : Word} (h : w.toNat % 0x10 ≠ 0) : nField w ≠ 0 :=
  fun hn => h ((nField_toNat w).symm.trans (congrArg BitVec.toNat hn))

/-- The decoder rejects every word of the groups of 30_encoding.md R78, each under its group's name. -/
theorem decodeWord_of_unrecognised {w : Word} (h : Unrecognised w) :
    ∃ r, decodeWord w = .error r := by
  unfold decodeWord
  obtain ⟨hop, hclear, hret⟩ | ⟨hop, hn⟩ | ⟨hop, hn⟩ | ⟨hop, hn⟩ | ⟨hop, hkk⟩ | ⟨hop, hkk⟩ := h
  · rw [opField_eq (op := 0x0) hop]
    refine ⟨.group0, ?_⟩
    exact (if_neg fun hw => hclear (congrArg BitVec.toNat hw)).trans
      (if_neg fun hw => hret (congrArg BitVec.toNat hw))
  · rw [opField_eq (op := 0x5) hop]
    exact ⟨.group5, if_neg (nField_ne_zero hn)⟩
  · rw [opField_eq (op := 0x8) hop]
    exact ⟨.group8, decode8_rejects _ _ ((nField_toNat w).symm ▸ hn)⟩
  · rw [opField_eq (op := 0x9) hop]
    exact ⟨.group9, if_neg (nField_ne_zero hn)⟩
  · rw [opField_eq (op := 0xE) hop]
    exact ⟨.groupE, decodeE_rejects _ ((kkField_toNat w).symm ▸ hkk)⟩
  · rw [opField_eq (op := 0xF) hop]
    exact ⟨.groupF, decodeF_rejects _ ((kkField_toNat w).symm ▸ hkk)⟩

/-! ## The Step on such a word -/

/-- The Step that fetches `w` dispatches it with `PC` advanced, then counts the timers. -/
theorem step_of_fetches {s : State} {w : Word} (h : Fetches s w) :
    step s = endStep (dispatchWord w s.advancePc) := by
  obtain ⟨hs, hp, hw⟩ := h
  obtain ⟨hf, -⟩ | ⟨-, hout, -⟩ | ⟨-, -, hstep⟩ := step_cases s
  · exact absurd hs hf
  · omega
  · rw [hstep, BitVec.eq_of_toNat_eq (hw.trans (append_toNat _ _).symm)]

/-- Dispatch that raised no fault is followed by one count of the timers. -/
theorem endStep_of_running {u : State} (hu : u.fault = none) :
    endStep (.next u) = .next (tickTimers u) := by
  have running : u.halted = false := by simpa using hu
  simp [endStep, running]

/-- Settles O8: every listed word is rejected, so its dispatch leaves the advanced state as it is,
and the timers count from there. -/
theorem unrecognisedWordIsNoOp : Obligations.UnrecognisedWordIsNoOp := by
  intro s w hw unrecognised
  obtain ⟨r, rejected⟩ := decodeWord_of_unrecognised unrecognised
  have running : s.advancePc.fault = none := hw.1
  calc step s = endStep (dispatchWord w s.advancePc) := step_of_fetches hw
    _ = endStep (.next s.advancePc) := by rw [dispatchWord_error rejected]
    _ = .next (tickTimers s.advancePc) := endStep_of_running running

end Sys2Proof.Proofs
end

section
/-! PROOF. The frames of the two writes that control flow makes, and from them jump, return and the
register skips (41_flow.md R101, R102, R105 to R108). -/

namespace Sys2Proof.Proofs

open Sys2Proof.Machine Sys2Proof.Safety

/-! ## Frames -/

theorem part_same_trans {p : Part} {s t u : State} (h : Part.same s t p) (h' : Part.same t u p) :
    Part.same s u p := by
  cases p with
  | v | mem => exact fun k => (h' k).trans (h k)
  | rnd => exact ⟨h'.1.trans h.1, h'.2.trans h.2⟩
  | _ => exact Eq.trans h' h

/-- Two changes in turn leave alone what both leave alone. -/
theorem sameBut_trans {ps : List Part} {s t u : State} (h : SameBut ps s t) (h' : SameBut ps t u) :
    SameBut ps s u :=
  fun p hp => part_same_trans (h p hp) (h' p hp)

theorem sameBut_mono {ps qs : List Part} {s t : State} (hsub : ps ⊆ qs) (h : SameBut ps s t) :
    SameBut qs s t :=
  fun p hp => h p fun hps => hp (hsub hps)

theorem setPc_sameBut (s : State) (a : Word) : SameBut [.pc] s (s.setPc a) := by
  intro p hp
  cases p with
  | pc => exact absurd (List.mem_singleton_self _) hp
  | v | mem => exact fun _ => rfl
  | rnd => exact ⟨rfl, rfl⟩
  | _ => rfl

theorem setStack_sameBut (s : State) (l : List Word) : SameBut [.stack] s (s.setStack l) := by
  intro p hp
  cases p with
  | stack => exact absurd (List.mem_singleton_self _) hp
  | v | mem => exact fun _ => rfl
  | rnd => exact ⟨rfl, rfl⟩
  | _ => rfl

/-! ## Jump -/

/-- Settles O26: jump is one write of `PC`, and zero-extension keeps the address's value. -/
theorem jumpSetsPc : Obligations.JumpSetsPc :=
  fun nnn s => ⟨s.setPc (zext16 nnn), rfl, zext16_toNat nnn, setPc_sameBut s _⟩

/-! ## Return -/

theorem exec_ret_of_cons {s : State} {a : Word} {rest : List Word} (h : s.stack = a :: rest) :
    exec .ret s = .next ((s.setStack rest).setPc a) := by
  simp only [exec, execReturn, h]

theorem exec_ret_of_nil {s : State} (h : s.stack = []) : exec .ret s = .next s := by
  simp only [exec, execReturn, h]

theorem pop_sameBut (s : State) (a : Word) (rest : List Word) :
    SameBut [.pc, .stack] s ((s.setStack rest).setPc a) :=
  sameBut_trans (sameBut_mono (by simp) (setStack_sameBut s rest))
    (sameBut_mono (by simp) (setPc_sameBut _ a))

/-- Settles O30: return pops into `PC` or does nothing, and the popped value is one of the entries
the invariant bounds. -/
theorem returnPopsOrDoesNothing : Obligations.ReturnPopsOrDoesNothing := by
  refine ⟨fun s a rest h => ?_, fun s h => exec_ret_of_nil h⟩
  have popped_bound (inv : StateInv s) : a.toNat ≤ 0x1000 :=
    inv.entries a (by rw [h]; exact List.mem_cons_self)
  exact ⟨_, exec_ret_of_cons h, rfl, rfl, pop_sameBut s a rest, popped_bound⟩

/-! ## Register skips -/

theorem skipIf_sameBut (s : State) (c : Bool) : SameBut [.pc] s (s.skipIf c) := by
  rw [skipIf_eq]
  exact setPc_sameBut s _

theorem skipIf_decide_pc (s : State) (P : Prop) [Decidable P] :
    (s.skipIf (decide P)).pc = if P then s.pc + 2 else s.pc := by
  simp only [skipIf_eq, State.setPc_pc, decide_eq_true_iff]

theorem skipIf_decide_not_pc (s : State) (P : Prop) [Decidable P] :
    (s.skipIf (decide (¬ P))).pc = if P then s.pc else s.pc + 2 := by
  rw [skipIf_decide_pc, ite_not]

/-- Settles O32: each skip is the one conditional write of `PC`, under the condition or under its
negation. -/
theorem registerSkips : Obligations.RegisterSkips :=
  fun _ _ _ s =>
    ⟨⟨_, rfl, skipIf_sameBut s _, skipIf_decide_pc s _⟩,
      ⟨_, rfl, skipIf_sameBut s _, skipIf_decide_not_pc s _⟩,
      ⟨_, rfl, skipIf_sameBut s _, skipIf_decide_pc s _⟩,
      ⟨_, rfl, skipIf_sameBut s _, skipIf_decide_not_pc s _⟩⟩

end Sys2Proof.Proofs
end

section
/-! PROOF. The frame of one register write, and from it set, add-immediate and copy (42_alu.md R120,
R121, R122). -/

namespace Sys2Proof.Proofs

open Sys2Proof.Machine Sys2Proof.Safety

/-! ## The frame of a register write -/

theorem setV_sameBut (s : State) (x : Reg) (b : Byte) : SameBut [.v] s (s.setV x b) := by
  intro p hp
  cases p with
  | v => exact absurd (List.mem_singleton_self _) hp
  | mem => exact fun _ => rfl
  | rnd => exact ⟨rfl, rfl⟩
  | _ => rfl

theorem setV_regsSameBut (s : State) (x : Reg) (b : Byte) : RegsSameBut [x] s (s.setV x b) := by
  intro k hk
  rw [getV_setV, if_neg (List.ne_of_not_mem_cons hk)]

theorem getV_setV_self (s : State) (x : Reg) (b : Byte) : (s.setV x b).getV x = b := by
  rw [getV_setV, if_pos rfl]

/-! ## Set, add-immediate, copy -/

theorem addResult_toNat (a b : Byte) : (addResult a b).toNat = (a.toNat + b.toNat) % 256 :=
  BitVec.toNat_ofNat _ 8

/-- Settles O33: each of the three is one register write, so its frame is the write's; what is left
is the value written. -/
theorem setAddImmediateCopy : Obligations.SetAddImmediateCopy := by
  intro x y kk s
  have sum_written : ((s.setV x (addResult (s.getV x) kk)).getV x).toNat =
      ((s.getV x).toNat + kk.toNat) % 256 := by
    rw [getV_setV_self, addResult_toNat]
  exact ⟨⟨_, rfl, setV_sameBut s x _, setV_regsSameBut s x _, getV_setV_self s x _⟩,
    ⟨_, rfl, setV_sameBut s x _, setV_regsSameBut s x _, sum_written⟩,
    ⟨_, rfl, setV_sameBut s x _, setV_regsSameBut s x _, getV_setV_self s x _⟩⟩

end Sys2Proof.Proofs
end

section
/-! PROOF. The frame of one write of `I`, and from it set-index (43_index_memory.md R140). -/

namespace Sys2Proof.Proofs

open Sys2Proof.Machine Sys2Proof.Safety

theorem setIndex_sameBut (s : State) (a : Word) : SameBut [.index] s (s.setIndex a) := by
  intro p hp
  cases p with
  | index => exact absurd (List.mem_singleton_self _) hp
  | v | mem => exact fun _ => rfl
  | rnd => exact ⟨rfl, rfl⟩
  | _ => rfl

/-- Settles O40: set-index is one write of `I`, and zero-extension keeps the address's value. -/
theorem setIndexLoadsTheAddress : Obligations.SetIndexLoadsTheAddress :=
  fun nnn s => ⟨s.setIndex (zext16 nnn), rfl, zext16_toNat nnn, setIndex_sameBut s _⟩

end Sys2Proof.Proofs
end

section
/-! PROOF. The frame of one write of the display, and from it clear-display (44_display.md R150). -/

namespace Sys2Proof.Proofs

open Sys2Proof.Machine Sys2Proof.Safety

theorem setFb_sameBut (s : State) (f : Display) : SameBut [.fb] s (s.setFb f) := by
  intro p hp
  cases p with
  | fb => exact absurd (List.mem_singleton_self _) hp
  | v | mem => exact fun _ => rfl
  | rnd => exact ⟨rfl, rfl⟩
  | _ => rfl

/-- On the grid, `pixel` is the display's entry. -/
theorem getElem_eq_pixel (f : Display) (r : Fin 32) (c : Fin 64) :
    f[r.val][c.val] = pixel f r c := by
  simp only [pixel, Vector.getElem?_eq_getElem r.isLt, Vector.getElem?_eq_getElem c.isLt,
    Option.bind_some, Option.getD_some]

/-- Settles O46: clear-display is one write of the display, and every pixel of what it writes is
off. -/
theorem clearDisplayTurnsAllOff : Obligations.ClearDisplayTurnsAllOff :=
  fun s => ⟨s.setFb blankDisplay, rfl, setFb_sameBut s _, fun r c =>
    (getElem_eq_pixel blankDisplay r c).trans (pixel_blankDisplay r c)⟩

end Sys2Proof.Proofs
end

section
/-! PROOF. The lowest pressed key and the Step of a decoded operation, and from them wait-for-key
(45_input_timers.md R163). -/

namespace Sys2Proof.Proofs

open Sys2Proof.Machine Sys2Proof.Safety

/-! ## The Step of a decoded operation -/

/-- The Step that runs `i` dispatches it with `PC` advanced, then counts the timers. -/
theorem step_of_runs {s : State} {i : Instr} (h : Runs s i) :
    step s = endStep (exec i s.advancePc) := by
  obtain ⟨w, hw, hi⟩ := h
  rw [step_of_fetches hw, dispatchWord_ok hi]

/-- Only a core that is not halted runs an operation. -/
theorem fault_of_runs {s : State} {i : Instr} (h : Runs s i) : s.fault = none := by
  obtain ⟨_, ⟨running, -, -⟩, -⟩ := h
  exact running

/-- The rewind takes back exactly the advance of the fetch. -/
@[simp] theorem rewindPc_advancePc (s : State) : s.advancePc.rewindPc = s := by
  simp [State.rewindPc, State.advancePc, State.setPc]

/-! ## The lowest key -/

@[simp] theorem digitByte_toNat (k : Reg) : (digitByte k).toNat = k.val := by
  have := k.isLt
  rw [digitByte, BitVec.toNat_ofNat]
  omega

/-- The lowest pressed key is unique: of two, neither lies below the other. -/
theorem isLowestKey_unique {s : State} {j k : Reg} (hj : IsLowestKey s j) (hk : IsLowestKey s k) :
    j = k := by
  obtain ⟨j_down, below_j⟩ := hj
  obtain ⟨k_down, below_k⟩ := hk
  rcases lt_trichotomy j k with lt | eq | gt
  · exact absurd (j_down.symm.trans (below_k j lt)) (by decide)
  · exact eq
  · exact absurd (k_down.symm.trans (below_j k gt)) (by decide)

/-- The search for the lowest key finds the one the spec names. -/
theorem lowestKey_of_isLowestKey {s : State} {k : Reg} (h : IsLowestKey s k) :
    lowestKey s = some k := by
  cases found : lowestKey s with
  | none => exact absurd (h.1.symm.trans (lowestKey_none s found k)) (by decide)
  | some j => rw [isLowestKey_unique (lowestKey_some s j found) h]

/-! ## Wait-for-key -/

theorem exec_waitForKey_of_isLowestKey (x : Reg) {s : State} {k : Reg} (h : IsLowestKey s k) :
    exec (.waitForKey x) s = .next (s.setV x (digitByte k)) := by
  simp only [exec, execWaitForKey, lowestKey_of_isLowestKey h]

theorem exec_waitForKey_of_noKeyDown (x : Reg) {s : State} (h : NoKeyDown s) :
    exec (.waitForKey x) s = .next s.rewindPc := by
  simp only [exec, execWaitForKey, (lowestKey_eq_none_iff s).mpr h]

/-- The Step of the stall: the rewind undoes the fetch's advance, so only the timers move. -/
theorem step_waitForKey_of_noKeyDown {x : Reg} {s : State} (h : Runs s (.waitForKey x))
    (up : NoKeyDown s) : step s = .next (tickTimers s) := by
  have running : s.fault = none := fault_of_runs h
  have up_advanced : NoKeyDown s.advancePc := up
  calc step s = endStep (exec (.waitForKey x) s.advancePc) := step_of_runs h
    _ = endStep (.next s) := by
      rw [exec_waitForKey_of_noKeyDown x up_advanced, rewindPc_advancePc]
    _ = .next (tickTimers s) := endStep_of_running running

/-- Settles O51: with a key down, wait-for-key is one register write of the lowest key; with none, one
write of `PC`, which over the whole Step gives back the `PC` it began at. -/
theorem waitForKeyTakesLowestOrRewinds : Obligations.WaitForKeyTakesLowestOrRewinds := by
  intro x s
  refine ⟨fun k lowest => ?_, fun up => ?_, step_waitForKey_of_noKeyDown⟩
  · have key_written : ((s.setV x (digitByte k)).getV x).toNat = k.val := by
      rw [getV_setV_self, digitByte_toNat]
    exact ⟨_, exec_waitForKey_of_isLowestKey x lowest, setV_sameBut s x _, setV_regsSameBut s x _,
      key_written⟩
  · exact ⟨_, exec_waitForKey_of_noKeyDown x up, setPc_sameBut s _, rfl⟩

end Sys2Proof.Proofs
end

section
/-! PROOF. The decoder and the encoder undo each other (30_encoding.md R76, R83), the decoder
follows the opcode map (R75, R76) and rejects exactly the listed groups (R78). -/

namespace Sys2Proof.Proofs

open Sys2Proof.Machine Sys2Proof.Safety Sys2Proof.Laws

/-! ## Decoding an encoded operation -/

/-- Each field of an operation's word reads as the operand that stands there, format by format. -/
theorem decodeWord_encode (i : Instr) : decodeWord (encode i) = .ok i := by
  cases i with
  | clearDisplay | ret => rfl
  | jump | call | setIndex | jumpWithOffset => simp [encode, decodeWord]
  | skipIfEqual | skipIfNotEqual | set | addImmediate | randomAnd => simp [encode, decodeWord]
  | skipIfRegistersEqual | skipIfRegistersNotEqual | drawSprite => simp [encode, decodeWord]
  | copy | orRegs | andRegs | xorRegs | addRegs | subRegs | shiftRight | subReverse | shiftLeft =>
    simp [encode, decodeWord, decode8]
  | skipIfKeyDown | skipIfKeyUp => simp [encode, decodeWord, decodeE]
  | getDelayTimer | waitForKey | setDelayTimer | setSoundTimer | addToIndex | loadGlyphAddress
  | storeBcd | storeRegisters | loadRegisters => simp [encode, decodeWord, decodeF]

/-- Settles O1: the two bytes of an operation make its word again, whose fields are the operands. -/
theorem decodeOfEncodeIsIdentity : Obligations.DecodeOfEncodeIsIdentity := by
  intro i rest
  simp only [encodeBytes, List.cons_append, List.nil_append, decode, wordOfBytes_bytes,
    decodeWord_encode]

/-! ## Encoding a decoded operation -/

theorem encode_of_decode8 {x y : Reg} {n : Nibble} {i : Instr} (h : decode8 x y n = .ok i) :
    encode i = 0x8#4 ++ regBits x ++ regBits y ++ n := by
  unfold decode8 at h
  split at h <;> cases h <;> rfl

theorem encode_of_decodeE {x : Reg} {kk : Byte} {i : Instr} (h : decodeE x kk = .ok i) :
    encode i = 0xE#4 ++ regBits x ++ kk := by
  unfold decodeE at h
  split at h <;> cases h <;> rfl

theorem encode_of_decodeF {x : Reg} {kk : Byte} {i : Instr} (h : decodeF x kk = .ok i) :
    encode i = 0xF#4 ++ regBits x ++ kk := by
  unfold decodeF at h
  split at h <;> cases h <;> rfl

theorem nnnField_append {w : Word} {op : Nibble} (h : opField w = op) : op ++ nnnField w = w := by
  rw [← h, ← word_eq_a]

theorem kkField_append {w : Word} {op : Nibble} (h : opField w = op) :
    op ++ regBits (xField w) ++ kkField w = w := by
  rw [← h, ← word_eq_xk]

theorem nField_append {w : Word} {op n : Nibble} (h : opField w = op) (hn : nField w = n) :
    op ++ regBits (xField w) ++ regBits (yField w) ++ n = w := by
  rw [← h, ← hn, ← word_eq_xy]

/-- The decoder's last arm is the sixteenth leading nibble. -/
theorem nibble_last : ∀ op : Nibble,
    op ∉ [0x0, 0x1, 0x2, 0x3, 0x4, 0x5, 0x6, 0x7, 0x8, 0x9, 0xA, 0xB, 0xC, 0xD, 0xE] →
      op = 0xF := by
  decide

/-- Settles O2: decoding names every field of the word as a constant or an operand, and a word is
its fields. -/
theorem encodeOfDecodeIsIdentity : Obligations.EncodeOfDecodeIsIdentity := by
  intro w i h
  unfold decodeWord at h
  split at h
  case h_1 =>
    split at h
    next hw =>
      cases h
      exact hw.symm
    next =>
      split at h
      next hw =>
        cases h
        exact hw.symm
      next => cases h
  case h_2 op | h_3 op | h_11 op | h_12 op =>
    cases h
    exact nnnField_append op
  case h_4 op | h_5 op | h_7 op | h_8 op | h_13 op =>
    cases h
    exact kkField_append op
  case h_6 op | h_10 op =>
    split at h
    next hn =>
      cases h
      exact nField_append op hn
    next => cases h
  case h_9 op => exact (encode_of_decode8 h).trans (nField_append op rfl)
  case h_14 op =>
    cases h
    exact nField_append op rfl
  case h_15 op => exact (encode_of_decodeE h).trans (kkField_append op)
  case h_16 =>
    have op : opField w = 0xF := nibble_last _ (by simp_all)
    exact (encode_of_decodeF h).trans (kkField_append op)

/-! ## The rejected words -/

theorem decode8_error {x y : Reg} {n : Nibble} {r : DecodeReject} (h : decode8 x y n = .error r) :
    n.toNat ∈ [8, 9, 0xA, 0xB, 0xC, 0xD, 0xF] := by
  have unlisted : ∀ n : Nibble, n ∉ [0x0, 0x1, 0x2, 0x3, 0x4, 0x5, 0x6, 0x7, 0xE] →
      n.toNat ∈ [8, 9, 0xA, 0xB, 0xC, 0xD, 0xF] := by
    decide
  unfold decode8 at h
  split at h
  case h_10 => exact unlisted n (by simp_all)
  all_goals cases h

theorem decodeE_error {x : Reg} {kk : Byte} {r : DecodeReject} (h : decodeE x kk = .error r) :
    kk.toNat ∉ [0x9E, 0xA1] := by
  intro listed
  have : kk = 0x9E ∨ kk = 0xA1 := by
    simpa [← BitVec.toNat_inj] using listed
  rcases this with rfl | rfl <;> cases h

theorem decodeF_error {x : Reg} {kk : Byte} {r : DecodeReject} (h : decodeF x kk = .error r) :
    kk.toNat ∉ [0x07, 0x0A, 0x15, 0x18, 0x1E, 0x29, 0x33, 0x55, 0x65] := by
  intro listed
  have : kk = 0x07 ∨ kk = 0x0A ∨ kk = 0x15 ∨ kk = 0x18 ∨ kk = 0x1E ∨ kk = 0x29 ∨ kk = 0x33 ∨
      kk = 0x55 ∨ kk = 0x65 := by
    simpa [← BitVec.toNat_inj] using listed
  rcases this with rfl | rfl | rfl | rfl | rfl | rfl | rfl | rfl | rfl <;> cases h

/-- A rejected word lies in the group its leading nibble names. -/
theorem unrecognised_of_error {w : Word} {r : DecodeReject} (h : decodeWord w = .error r) :
    Unrecognised w := by
  have op_number {op : Nibble} (hop : opField w = op) : w.toNat / 0x1000 = op.toNat :=
    (opField_toNat w).symm.trans (congrArg BitVec.toNat hop)
  have n_number (hn : nField w ≠ 0) : w.toNat % 0x10 ≠ 0 := fun e =>
    hn (BitVec.eq_of_toNat_eq ((nField_toNat w).trans e))
  unfold decodeWord at h
  split at h
  case h_1 op =>
    split at h
    next => cases h
    next not_clear =>
      split at h
      next => cases h
      next not_ret =>
        exact .inl ⟨op_number op, fun e => not_clear (BitVec.eq_of_toNat_eq e),
          fun e => not_ret (BitVec.eq_of_toNat_eq e)⟩
  case h_6 op =>
    split at h
    next => cases h
    next hn => exact .inr (.inl ⟨op_number op, n_number hn⟩)
  case h_9 op => exact .inr (.inr (.inl ⟨op_number op, nField_toNat w ▸ decode8_error h⟩))
  case h_10 op =>
    split at h
    next => cases h
    next hn => exact .inr (.inr (.inr (.inl ⟨op_number op, n_number hn⟩)))
  case h_15 op =>
    exact .inr (.inr (.inr (.inr (.inl ⟨op_number op, kkField_toNat w ▸ decodeE_error h⟩))))
  case h_16 =>
    have op : opField w = 0xF := nibble_last _ (by simp_all)
    exact .inr (.inr (.inr (.inr (.inr ⟨op_number op, kkField_toNat w ▸ decodeF_error h⟩))))
  all_goals cases h

/-- Settles O4: group by group, the decoder's tests are the listed ones, read as numbers. -/
theorem rejectedWordsAreTheListedGroups : Obligations.RejectedWordsAreTheListedGroups :=
  fun _ => ⟨fun ⟨_, h⟩ => unrecognised_of_error h, decodeWord_of_unrecognised⟩

/-! ## The opcode map -/

/-- The word of every operation matches the row that bears its name. -/
theorem encode_matches_row (i : Instr) : EncodingRow.Statement i := by
  cases i with
  | clearDisplay => exact EncodingRow.clearDisplay
  | ret => exact EncodingRow.ret
  | jump nnn => exact EncodingRow.jump nnn
  | call nnn => exact EncodingRow.call nnn
  | skipIfEqual x kk => exact EncodingRow.skipIfEqual x kk
  | skipIfNotEqual x kk => exact EncodingRow.skipIfNotEqual x kk
  | skipIfRegistersEqual x y => exact EncodingRow.skipIfRegistersEqual x y
  | set x kk => exact EncodingRow.set x kk
  | addImmediate x kk => exact EncodingRow.addImmediate x kk
  | copy x y => exact EncodingRow.copy x y
  | orRegs x y => exact EncodingRow.orRegs x y
  | andRegs x y => exact EncodingRow.andRegs x y
  | xorRegs x y => exact EncodingRow.xorRegs x y
  | addRegs x y => exact EncodingRow.addRegs x y
  | subRegs x y => exact EncodingRow.subRegs x y
  | shiftRight x y => exact EncodingRow.shiftRight x y
  | subReverse x y => exact EncodingRow.subReverse x y
  | shiftLeft x y => exact EncodingRow.shiftLeft x y
  | skipIfRegistersNotEqual x y => exact EncodingRow.skipIfRegistersNotEqual x y
  | setIndex nnn => exact EncodingRow.setIndex nnn
  | jumpWithOffset nnn => exact EncodingRow.jumpWithOffset nnn
  | randomAnd x kk => exact EncodingRow.randomAnd x kk
  | drawSprite x y n => exact EncodingRow.drawSprite x y n
  | skipIfKeyDown x => exact EncodingRow.skipIfKeyDown x
  | skipIfKeyUp x => exact EncodingRow.skipIfKeyUp x
  | getDelayTimer x => exact EncodingRow.getDelayTimer x
  | waitForKey x => exact EncodingRow.waitForKey x
  | setDelayTimer x => exact EncodingRow.setDelayTimer x
  | setSoundTimer x => exact EncodingRow.setSoundTimer x
  | addToIndex x => exact EncodingRow.addToIndex x
  | loadGlyphAddress x => exact EncodingRow.loadGlyphAddress x
  | storeBcd x => exact EncodingRow.storeBcd x
  | storeRegisters x => exact EncodingRow.storeRegisters x
  | loadRegisters x => exact EncodingRow.loadRegisters x

/-- Two rows of the map whose fixed bits agree where both test are one row. -/
theorem opcodeMap_rows_differ : ∀ r ∈ opcodeMap, ∀ r' ∈ opcodeMap,
    r.bits &&& r'.mask = r'.bits &&& r.mask → r' = r := by
  decide

theorem matching_row_unique {w : Word} {r r' : OpcodeRow} (hr : r ∈ opcodeMap)
    (hr' : r' ∈ opcodeMap) (h : r.matchesWord w = true) (h' : r'.matchesWord w = true) :
    r' = r := by
  rw [OpcodeRow.matchesWord, beq_iff_eq] at h h'
  have agree : r.bits &&& r'.mask = r'.bits &&& r.mask := by
    rw [← h, ← h', BitVec.and_assoc, BitVec.and_assoc, BitVec.and_comm r.mask]
  exact opcodeMap_rows_differ r hr r' hr' agree

/-- Where a row tests every bit of a field, a matching word has the row's value there. -/
theorem extractLsb'_of_matches {r : OpcodeRow} {w : Word} (h : r.matchesWord w = true)
    {start len : Nat} (tested : r.mask.extractLsb' start len = BitVec.allOnes len) :
    w.extractLsb' start len = r.bits.extractLsb' start len := by
  rw [OpcodeRow.matchesWord, beq_iff_eq] at h
  rw [← h, BitVec.extractLsb'_and, tested, BitVec.and_allOnes]

/-- Every row tests the leading nibble, and, in the groups with unrecognised words, all that tells
these apart. -/
theorem opcodeMap_tests : ∀ r ∈ opcodeMap, opField r.mask = 0xF ∧
    (r.bits.toNat / 0x1000 = 0x0 → r.mask = 0xFFFF) ∧
    (r.bits.toNat / 0x1000 ∈ [0x5, 0x8, 0x9] → nField r.mask = 0xF) ∧
    (r.bits.toNat / 0x1000 ∈ [0xE, 0xF] → kkField r.mask = 0xFF) := by
  decide

theorem opcodeMap_bits_decode : ∀ r ∈ opcodeMap, (decodeWord r.bits).isOk = true := by
  decide

/-- A word that matches a row lies in a rejected group only if the row's own bits do. -/
theorem unrecognised_bits_of_matches {r : OpcodeRow} {w : Word} (hr : r ∈ opcodeMap)
    (h : r.matchesWord w = true) (hw : Unrecognised w) : Unrecognised r.bits := by
  obtain ⟨op_tested, all_tested, n_tested, kk_tested⟩ := opcodeMap_tests r hr
  have op_same : w.toNat / 0x1000 = r.bits.toNat / 0x1000 := by
    rw [← opField_toNat, ← opField_toNat]
    exact congrArg _ (extractLsb'_of_matches h op_tested)
  have n_same (ht : nField r.mask = 0xF) : w.toNat % 0x10 = r.bits.toNat % 0x10 := by
    rw [← nField_toNat, ← nField_toNat]
    exact congrArg _ (extractLsb'_of_matches h ht)
  have kk_same (ht : kkField r.mask = 0xFF) : w.toNat % 0x100 = r.bits.toNat % 0x100 := by
    rw [← kkField_toNat, ← kkField_toNat]
    exact congrArg _ (extractLsb'_of_matches h ht)
  have all_same (ht : r.mask = 0xFFFF) : w = r.bits := by
    rw [OpcodeRow.matchesWord, beq_iff_eq, ht] at h
    exact BitVec.and_allOnes.symm.trans h
  have hw' := hw
  unfold Unrecognised at hw'
  simp only [op_same] at hw'
  obtain ⟨op, -⟩ | ⟨op, hn⟩ | ⟨op, hn⟩ | ⟨op, hn⟩ | ⟨op, hkk⟩ | ⟨op, hkk⟩ := hw'
  · exact all_same (all_tested op) ▸ hw
  · rw [n_same (n_tested (by simp [op]))] at hn
    exact .inr (.inl ⟨op, hn⟩)
  · rw [n_same (n_tested (by simp [op]))] at hn
    exact .inr (.inr (.inl ⟨op, hn⟩))
  · rw [n_same (n_tested (by simp [op]))] at hn
    exact .inr (.inr (.inr (.inl ⟨op, hn⟩)))
  · rw [kk_same (kk_tested (by simp [op]))] at hkk
    exact .inr (.inr (.inr (.inr (.inl ⟨op, hkk⟩))))
  · rw [kk_same (kk_tested (by simp [op]))] at hkk
    exact .inr (.inr (.inr (.inr (.inr ⟨op, hkk⟩))))

/-- No row matches a rejected word: the row's own bits would be rejected with it. -/
theorem not_matches_of_error {w : Word} {e : DecodeReject} (h : decodeWord w = .error e) :
    ∀ r ∈ opcodeMap, r.matchesWord w = false := by
  intro r hr
  rw [← Bool.not_eq_true]
  intro matched
  obtain ⟨e', h'⟩ := decodeWord_of_unrecognised
    (unrecognised_bits_of_matches hr matched (unrecognised_of_error h))
  have decodes := opcodeMap_bits_decode r hr
  rw [h'] at decodes
  cases decodes

/-- A decoded word matches the row of its operation. -/
theorem row_of_decodeWord_ok {w : Word} {i : Instr} (h : decodeWord w = .ok i) :
    ∃ r ∈ opcodeMap, r.name = mnemonic i ∧ r.matchesWord w = true :=
  encodeOfDecodeIsIdentity w i h ▸ encode_matches_row i

/-- Settles O3: the row of a decoded word is the row of the operation's own word, which is that
word; no two rows share a word, and none matches a rejected one. -/
theorem decoderFollowsOpcodeMap : Obligations.DecoderFollowsOpcodeMap := by
  intro w
  refine ⟨fun i h => ?_, fun ⟨e, h⟩ => not_matches_of_error h, fun none_matches => ?_⟩
  · obtain ⟨r, hr, name, matched⟩ := row_of_decodeWord_ok h
    exact ⟨r, hr, matched, name, fun r' hr' matched' => matching_row_unique hr hr' matched matched'⟩
  · cases h : decodeWord w with
    | error e => exact ⟨e, rfl⟩
    | ok i =>
      obtain ⟨r, hr, -, matched⟩ := row_of_decodeWord_ok h
      exact absurd matched (by simp [none_matches r hr])

/-! ## Operands as numbers -/

/-- Settles O5: a word is the sum of its fields at their places, format by format. -/
theorem operandsStandInTheirFields : Obligations.OperandsStandInTheirFields := by
  refine ⟨fun nnn => ?_, fun x kk => ?_, fun x y => ?_, fun x y n => ?_, fun x => ?_⟩
  · simp [encode, a_toNat]
  · simp [encode, xk_toNat, regBits_toNat]
  · simp +arith [encode, xy_toNat, regBits_toNat]
  · simp [encode, xy_toNat, regBits_toNat]
  · simp +arith [encode, xk_toNat, regBits_toNat]

/-- Settles O6: the decoder evaluated on each sample. -/
theorem sampleWordsDecode : Obligations.SampleWordsDecode := by
  unfold Obligations.SampleWordsDecode
  decide

end Sys2Proof.Proofs
end

section
/-! PROOF. The frames of the state's remaining updates: what each leaves alone, part by part. -/

namespace Sys2Proof.Proofs

open Sys2Proof.Machine Sys2Proof.Safety

/-! ## A frame, part by part -/

/-- A frame spelt out over the thirteen parts, for `simp` to close from the update's field lemmas.
-/
theorem sameBut_iff {ps : List Part} {s t : State} : SameBut ps s t ↔
    (.v ∉ ps → ∀ k, t.getV k = s.getV k) ∧ (.index ∉ ps → t.index = s.index) ∧
    (.pc ∉ ps → t.pc = s.pc) ∧ (.stack ∉ ps → t.stack = s.stack) ∧ (.dt ∉ ps → t.dt = s.dt) ∧
    (.st ∉ ps → t.st = s.st) ∧ (.fb ∉ ps → t.fb = s.fb) ∧ (.keys ∉ ps → t.keys = s.keys) ∧
    (.mem ∉ ps → ∀ a, t.readByte a = s.readByte a) ∧ (.fault ∉ ps → t.fault = s.fault) ∧
    (.stackDepth ∉ ps → t.stackDepth = s.stackDepth) ∧ (.glyph ∉ ps → t.glyph = s.glyph) ∧
    (.rnd ∉ ps → t.rndIn = s.rndIn ∧ t.rndCount = s.rndCount) := by
  constructor
  · exact fun h => ⟨h .v, h .index, h .pc, h .stack, h .dt, h .st, h .fb, h .keys, h .mem, h .fault,
      h .stackDepth, h .glyph, h .rnd⟩
  · rintro ⟨v, index, pc, stack, dt, st, fb, keys, mem, fault, stackDepth, glyph, rnd⟩ p
    cases p <;> assumption

theorem sameBut_refl (ps : List Part) (s : State) : SameBut ps s s := by
  simp [sameBut_iff]

theorem setDt_sameBut (s : State) (b : Byte) : SameBut [.dt] s (s.setDt b) := by
  simp [sameBut_iff]

theorem setSt_sameBut (s : State) (b : Byte) : SameBut [.st] s (s.setSt b) := by
  simp [sameBut_iff]

theorem setMem_sameBut (s : State) (m : Memory) : SameBut [.mem] s (s.setMem m) := by
  simp [sameBut_iff]

theorem setKeys_sameBut (s : State) (ks : Vector Bool 16) : SameBut [.keys] s (s.setKeys ks) := by
  simp [sameBut_iff]

theorem raise_sameBut (c : FaultCause) (info : Word) (s : State) :
    SameBut [.pc, .fault] s (raise c info s) := by
  simp [sameBut_iff]

theorem setBlock_sameBut (s : State) (k : Nat) (bs : List Byte) :
    SameBut [.v] s (s.setBlock k bs) := by
  rw [setBlock_rest]
  simp [sameBut_iff, State.readByte]

theorem consumeRnd_sameBut (s : State) : SameBut [.rnd] s (consumeRnd s) := by
  rw [consumeRnd_rest]
  simp [sameBut_iff, State.readByte, State.getV]

/-! ## Two updates in turn -/

theorem flagThenResult_sameBut (x : Reg) (r f : Byte) (s : State) :
    SameBut [.v] s (flagThenResult x r f s) :=
  sameBut_trans (setV_sameBut s 15 f) (setV_sameBut _ x r)

theorem resultThenFlag_sameBut (x : Reg) (r f : Byte) (s : State) :
    SameBut [.v] s (resultThenFlag x r f s) :=
  sameBut_trans (setV_sameBut s x r) (setV_sameBut _ 15 f)

theorem flagThenResult_regsSameBut (x : Reg) (r f : Byte) (s : State) :
    RegsSameBut [x, 15] s (flagThenResult x r f s) := by
  intro k hk
  simp only [List.mem_cons, List.not_mem_nil, or_false, not_or] at hk
  rw [getV_flagThenResult, if_neg hk.1, if_neg hk.2]

theorem resultThenFlag_regsSameBut (x : Reg) (r f : Byte) (s : State) :
    RegsSameBut [x, 15] s (resultThenFlag x r f s) := by
  intro k hk
  simp only [List.mem_cons, List.not_mem_nil, or_false, not_or] at hk
  rw [getV_resultThenFlag, if_neg hk.2, if_neg hk.1]

theorem pushAndJump_sameBut (s : State) (a b : Word) :
    SameBut [.pc, .stack] s ((s.pushReturn a).setPc b) :=
  sameBut_trans (sameBut_mono (by simp) (setStack_sameBut s _))
    (sameBut_mono (by simp) (setPc_sameBut _ b))

theorem drawAndFlag_sameBut (x y : Reg) (n : Nibble) (s : State) :
    SameBut [.v, .fb] s (drawAndFlag x y n s) :=
  sameBut_trans (sameBut_mono (by simp) (setFb_sameBut s _))
    (sameBut_mono (by simp) (setV_sameBut _ 15 _))

theorem drawAndFlag_regsSameBut (x y : Reg) (n : Nibble) (s : State) :
    RegsSameBut [15] s (drawAndFlag x y n s) :=
  setV_regsSameBut (s.setFb (drawnSprite x y n s).1) 15 _

theorem drawRnd_sameBut (s : State) (x : Reg) (b : Byte) :
    SameBut [.v, .rnd] s ((consumeRnd s).setV x b) :=
  sameBut_trans (sameBut_mono (by simp) (consumeRnd_sameBut s))
    (sameBut_mono (by simp) (setV_sameBut _ x b))

theorem drawRnd_regsSameBut (x : Reg) (b : Byte) (s : State) :
    RegsSameBut [x] s ((consumeRnd s).setV x b) :=
  fun k hk => (setV_regsSameBut (consumeRnd s) x b k hk).trans (getV_consumeRnd s k)

end Sys2Proof.Proofs
end

section
/-! PROOF. Everything a dispatch can do: the fault of the spec's table, or the operation's effect.
What every operation leaves alone, and the table itself, follow from the one case split. -/

namespace Sys2Proof.Proofs

open Sys2Proof.Machine Sys2Proof.Safety

/-! ## The effect of an operation that raises no fault -/

/-- The state an operation leaves when the spec's table gives it no fault (`exec_of_faultOf_none`):
its meaning without its checks. -/
def effect (i : Instr) (s : State) : State :=
  match i with
  | .clearDisplay => s.setFb blankDisplay
  | .ret =>
    match s.stack with
    | [] => s
    | a :: rest => (s.setStack rest).setPc a
  | .jump nnn => s.setPc (zext16 nnn)
  | .call nnn => (s.pushReturn s.pc).setPc (zext16 nnn)
  | .skipIfEqual x kk => s.skipIf (decide (s.getV x = kk))
  | .skipIfNotEqual x kk => s.skipIf (decide (s.getV x ≠ kk))
  | .skipIfRegistersEqual x y => s.skipIf (decide (s.getV x = s.getV y))
  | .skipIfRegistersNotEqual x y => s.skipIf (decide (s.getV x ≠ s.getV y))
  | .set x kk => s.setV x kk
  | .addImmediate x kk => s.setV x (addResult (s.getV x) kk)
  | .copy x y => s.setV x (s.getV y)
  | .orRegs x y => s.setV x (s.getV x ||| s.getV y)
  | .andRegs x y => s.setV x (s.getV x &&& s.getV y)
  | .xorRegs x y => s.setV x (s.getV x ^^^ s.getV y)
  | .addRegs x y =>
    resultThenFlag x (addResult (s.getV x) (s.getV y)) (addFlag (s.getV x) (s.getV y)) s
  | .subRegs x y =>
    flagThenResult x (subResult (s.getV x) (s.getV y)) (subFlag (s.getV x) (s.getV y)) s
  | .shiftRight x _ => flagThenResult x (shrResult (s.getV x)) (shrFlag (s.getV x)) s
  | .subReverse x y =>
    flagThenResult x (subResult (s.getV y) (s.getV x)) (subFlag (s.getV y) (s.getV x)) s
  | .shiftLeft x _ => flagThenResult x (shlResult (s.getV x)) (shlFlag (s.getV x)) s
  | .setIndex nnn => s.setIndex (zext16 nnn)
  | .jumpWithOffset nnn => s.setPc (offsetTarget nnn s)
  | .randomAnd x kk => (consumeRnd s).setV x (rndByte s &&& kk)
  | .drawSprite x y n => drawAndFlag x y n s
  | .skipIfKeyDown x => s.skipIf (s.keyDown (Fin.ofNat 16 (s.getV x).toNat))
  | .skipIfKeyUp x => s.skipIf (!s.keyDown (Fin.ofNat 16 (s.getV x).toNat))
  | .getDelayTimer x => s.setV x s.dt
  | .waitForKey x =>
    match lowestKey s with
    | some k => s.setV x (digitByte k)
    | none => s.rewindPc
  | .setDelayTimer x => s.setDt (s.getV x)
  | .setSoundTimer x => s.setSt (s.getV x)
  | .addToIndex x => s.setIndex (s.index + byteToWord (s.getV x))
  | .loadGlyphAddress x => s.setIndex (glyphAddress (Fin.ofNat 16 (s.getV x).toNat))
  | .storeBcd x => s.setMem (Memory.writeBlock s.mem (dataAddress s 0) (bcdDigits (s.getV x)))
  | .storeRegisters x => s.setMem (Memory.writeBlock s.mem (dataAddress s 0) (registerBlock x s))
  | .loadRegisters x => s.setBlock 0 (Memory.readBlock s.mem (dataAddress s 0) (x.val + 1))

/-! ## The checks, as the spec's table states them -/

theorem stackFull_iff (d : StackDepth) (len : Nat) : stackFull d len = true ↔ d = .limit len := by
  cases d with
  | unbounded => simp [stackFull]
  | limit depth =>
    simp only [stackFull, beq_iff_eq, StackDepth.limit.injEq]
    exact eq_comm

theorem zext16_eq_ofNat (nnn : Addr) : zext16 nnn = BitVec.ofNat 16 nnn.toNat :=
  (BitVec.ofNat_toNat 16 nnn).symm

theorem byteToWord_eq_ofNat (b : Byte) : byteToWord b = BitVec.ofNat 16 b.toNat :=
  (BitVec.ofNat_toNat 16 b).symm

theorem withBlock_of_fault {last : Nat} {s : State} {body : State → State} {c : FaultCause}
    {info : Nat}
    (h : (if 0xFFF < s.index.toNat + last then some (.dataAddressFault, max s.index.toNat 0x1000)
      else none) = some (c, info)) :
    withBlock last s body = .next (raise c (BitVec.ofNat 16 info) s) := by
  rw [Option.ite_none_right_eq_some] at h
  obtain ⟨out, eq⟩ := h
  cases eq
  exact withBlock_out last s body out

theorem withBlock_of_no_fault {last : Nat} {s : State} {body : State → State}
    (h : (if 0xFFF < s.index.toNat + last then
      some (FaultCause.dataAddressFault, max s.index.toNat 0x1000) else none) = none) :
    withBlock last s body = .next (body s) := by
  split at h
  next => cases h
  next within => exact withBlock_in last s body (by omega)

theorem withDigit_of_fault {x : Reg} {s : State} {body : Reg → State → State} {c : FaultCause}
    {info : Nat}
    (h : (if 15 < (s.getV x).toNat then some (.operandRangeFault, (s.getV x).toNat) else none) =
      some (c, info)) :
    withDigit x s body = .next (raise c (BitVec.ofNat 16 info) s) := by
  rw [Option.ite_none_right_eq_some] at h
  obtain ⟨out, eq⟩ := h
  cases eq
  rw [withDigit_out x s body out, byteToWord_eq_ofNat]

theorem withDigit_of_no_fault {x : Reg} {s : State} {body : Reg → State → State}
    (h : (if 15 < (s.getV x).toNat then some (FaultCause.operandRangeFault, (s.getV x).toNat)
      else none) = none) :
    withDigit x s body = .next (body (Fin.ofNat 16 (s.getV x).toNat) s) := by
  split at h
  next => cases h
  next digit =>
    have lt : (s.getV x).toNat < 16 := by omega
    rw [withDigit_in x s body lt]
    congr 2
    exact Fin.ext (Nat.mod_eq_of_lt lt).symm

/-- A row on the grid lies above memory: the draw is the fault entry. -/
theorem execDrawSprite_of_out {x y : Reg} {n : Nibble} {s : State}
    (some_row : 0 < spriteRows (spriteRow y s) n)
    (out : 0xFFF < s.index.toNat + (spriteRows (spriteRow y s) n - 1)) :
    execDrawSprite x y n s = .next (raise .dataAddressFault (dataFaultInfo s) s) := by
  unfold execDrawSprite
  split
  next none => omega
  next rows eq => exact withBlock_out rows s _ (by omega)

/-- Every row on the grid, if there is one, lies in memory: the draw is the drawing. -/
theorem execDrawSprite_of_in {x y : Reg} {n : Nibble} {s : State}
    (within : 0 < spriteRows (spriteRow y s) n →
      s.index.toNat + (spriteRows (spriteRow y s) n - 1) ≤ 0xFFF) :
    execDrawSprite x y n s = .next (drawAndFlag x y n s) := by
  unfold execDrawSprite
  split
  next => rfl
  next rows eq => exact withBlock_in rows s _ (by omega)

/-! ## Everything a dispatch can do -/

/-- Where the spec's table gives a fault, dispatch enters it. -/
theorem exec_of_faultOf_some {i : Instr} {s : State} {c : FaultCause} {info : Nat}
    (h : faultOf i s = some (c, info)) : exec i s = .next (raise c (BitVec.ofNat 16 info) s) := by
  cases i with
  | call nnn =>
    rw [faultOf, Option.ite_none_right_eq_some] at h
    obtain ⟨full, eq⟩ := h
    cases eq
    simp only [exec, execCall, (stackFull_iff _ _).2 full, if_true, zext16_eq_ofNat]
  | drawSprite x y n =>
    rw [faultOf, Option.ite_none_right_eq_some] at h
    obtain ⟨⟨some_row, out⟩, eq⟩ := h
    cases eq
    exact execDrawSprite_of_out some_row out
  | storeBcd | storeRegisters | loadRegisters =>
    simp only [exec, execStoreBcd, execStoreRegisters, execLoadRegisters]
    exact withBlock_of_fault h
  | skipIfKeyDown | skipIfKeyUp | loadGlyphAddress =>
    simp only [exec, execSkipIfKeyDown, execSkipIfKeyUp, execLoadGlyphAddress]
    exact withDigit_of_fault h
  | _ => cases h

/-- Where it gives none, dispatch is the operation's effect. -/
theorem exec_of_faultOf_none {i : Instr} {s : State} (h : faultOf i s = none) :
    exec i s = .next (effect i s) := by
  cases i with
  | ret =>
    cases hs : s.stack with
    | nil | cons => simp only [exec, execReturn, effect, hs]
  | waitForKey x =>
    cases hk : lowestKey s with
    | none | some => simp only [exec, execWaitForKey, effect, hk]
  | call nnn =>
    have not_full : ¬ stackFull s.stackDepth s.stack.length = true := by
      rw [stackFull_iff]
      simpa [faultOf] using h
    simp only [exec, execCall, if_neg not_full, effect]
  | drawSprite x y n =>
    refine execDrawSprite_of_in fun some_row => ?_
    simp only [faultOf, ite_eq_right_iff, reduceCtorEq, imp_false, not_and, not_lt] at h
    exact h some_row
  | storeBcd | storeRegisters | loadRegisters =>
    simp only [exec, execStoreBcd, execStoreRegisters, execLoadRegisters]
    exact withBlock_of_no_fault h
  | skipIfKeyDown | skipIfKeyUp | loadGlyphAddress =>
    simp only [exec, execSkipIfKeyDown, execSkipIfKeyUp, execLoadGlyphAddress]
    exact withDigit_of_no_fault h
  | _ => rfl

theorem exec_total (i : Instr) (s : State) : ∃ t, exec i s = .next t := by
  cases h : faultOf i s with
  | none => exact ⟨_, exec_of_faultOf_none h⟩
  | some f => exact ⟨_, exec_of_faultOf_some h⟩

/-- A dispatch enters the fault of the table or has the operation's effect. -/
theorem exec_next_cases {i : Instr} {s t : State} (h : exec i s = .next t) :
    (∃ c info, faultOf i s = some (c, info) ∧ t = raise c (BitVec.ofNat 16 info) s) ∨
    (faultOf i s = none ∧ t = effect i s) := by
  cases hf : faultOf i s with
  | none =>
    cases h.symm.trans (exec_of_faultOf_none hf)
    exact .inr ⟨rfl, rfl⟩
  | some f =>
    cases h.symm.trans (exec_of_faultOf_some hf)
    exact .inl ⟨_, _, rfl, rfl⟩

/-! ## What an effect leaves alone -/

theorem effect_sameBut (i : Instr) (s : State) :
    SameBut (.pc :: partsWritten i) s (effect i s) := by
  have written {t : State} (h : SameBut (partsWritten i) s t) :
      SameBut (.pc :: partsWritten i) s t := sameBut_mono (List.subset_cons_self _ _) h
  cases i with
  | clearDisplay => exact written (setFb_sameBut s _)
  | ret =>
    simp only [effect]
    split
    · exact sameBut_refl _ s
    · exact pop_sameBut s _ _
  | call nnn => exact pushAndJump_sameBut s _ _
  | jump | jumpWithOffset => exact setPc_sameBut s _
  | skipIfEqual | skipIfNotEqual | skipIfRegistersEqual | skipIfRegistersNotEqual | skipIfKeyDown
  | skipIfKeyUp => exact skipIf_sameBut s _
  | set | addImmediate | copy | orRegs | andRegs | xorRegs | getDelayTimer =>
    exact written (setV_sameBut s _ _)
  | addRegs => exact written (resultThenFlag_sameBut _ _ _ s)
  | subRegs | shiftRight | subReverse | shiftLeft => exact written (flagThenResult_sameBut _ _ _ s)
  | setIndex | addToIndex | loadGlyphAddress => exact written (setIndex_sameBut s _)
  | randomAnd => exact written (drawRnd_sameBut s _ _)
  | drawSprite => exact written (drawAndFlag_sameBut _ _ _ s)
  | waitForKey x =>
    simp only [effect]
    split
    · exact written (setV_sameBut s x _)
    · exact sameBut_mono (by simp) (setPc_sameBut s _)
  | setDelayTimer => exact written (setDt_sameBut s _)
  | setSoundTimer => exact written (setSt_sameBut s _)
  | storeBcd | storeRegisters => exact written (setMem_sameBut s _)
  | loadRegisters => exact written (setBlock_sameBut s _ _)

/-- Settles O20: a fault writes `PC` and `FAULT`, an effect `PC` and the parts of its rule. -/
theorem operationsWriteOnlyTheirParts : Obligations.OperationsWriteOnlyTheirParts := by
  intro i s t h
  obtain ⟨c, info, -, rfl⟩ | ⟨-, rfl⟩ := exec_next_cases h
  · exact sameBut_mono (by simp) (raise_sameBut c _ s)
  · exact sameBut_mono (by simp) (effect_sameBut i s)

theorem effect_regsSameBut (i : Instr) (s : State) :
    RegsSameBut (regsWritten i) s (effect i s) := by
  have v_kept (hv : .v ∉ partsWritten i) : RegsSameBut (regsWritten i) s (effect i s) :=
    fun k _ => effect_sameBut i s .v (by simp [hv]) k
  cases i with
  | set | addImmediate | copy | orRegs | andRegs | xorRegs | getDelayTimer =>
    exact setV_regsSameBut s _ _
  | addRegs => exact resultThenFlag_regsSameBut _ _ _ s
  | subRegs | shiftRight | subReverse | shiftLeft => exact flagThenResult_regsSameBut _ _ _ s
  | randomAnd => exact drawRnd_regsSameBut _ _ s
  | drawSprite => exact drawAndFlag_regsSameBut _ _ _ s
  | waitForKey x =>
    simp only [effect]
    split
    · exact setV_regsSameBut s x _
    · exact fun _ _ => rfl
  | loadRegisters x =>
    intro k hk
    have above : x.val < k.val := by simpa [regsWritten] using hk
    rw [effect, getV_setBlock, dif_neg (by simp only [readBlock_length]; omega)]
  | _ => exact v_kept (by simp [partsWritten])

/-- Settles O21: a fault writes no register, an effect its destination and, of six, `VF`. -/
theorem operationsWriteOnlyTheirRegisters : Obligations.OperationsWriteOnlyTheirRegisters := by
  intro i s t h
  obtain ⟨c, info, -, rfl⟩ | ⟨-, rfl⟩ := exec_next_cases h
  · exact fun k _ => raise_getV s c _ k
  · exact effect_regsSameBut i s

/-- No rule's Effect names the key snapshot, the fault latch or a parameter. -/
theorem not_mem_partsWritten (i : Instr) {p : Part}
    (hp : p = .keys ∨ p = .fault ∨ p = .stackDepth ∨ p = .glyph) : p ∉ .pc :: partsWritten i := by
  rcases hp with rfl | rfl | rfl | rfl <;> cases i <;> simp [partsWritten]

@[simp] theorem effect_fault (i : Instr) (s : State) : (effect i s).fault = s.fault :=
  effect_sameBut i s .fault (not_mem_partsWritten i (by simp))

@[simp] theorem effect_stackDepth (i : Instr) (s : State) :
    (effect i s).stackDepth = s.stackDepth :=
  effect_sameBut i s .stackDepth (not_mem_partsWritten i (by simp))

@[simp] theorem effect_glyph (i : Instr) (s : State) : (effect i s).glyph = s.glyph :=
  effect_sameBut i s .glyph (not_mem_partsWritten i (by simp))

/-- Settles O15: the fault entry written out, or an effect, none of which writes `FAULT`. -/
theorem dispatchFaultsExactlyAsTabled : Obligations.DispatchFaultsExactlyAsTabled := by
  exact fun i s => ⟨fun _ _ => exec_of_faultOf_some,
    fun h => ⟨_, exec_of_faultOf_none h, effect_fault i s⟩⟩

/-! ## The fault entry, as the operations' statements write it -/

theorem faultOf_info_lt {i : Instr} {s : State} {c : FaultCause} {info : Nat}
    (h : faultOf i s = some (c, info)) : info < 65536 := by
  have := s.index.isLt
  cases i with
  | call nnn =>
    have := nnn.isLt
    rw [faultOf, Option.ite_none_right_eq_some] at h
    cases h.2
    omega
  | drawSprite | storeBcd | storeRegisters | loadRegisters =>
    rw [faultOf, Option.ite_none_right_eq_some] at h
    cases h.2
    omega
  | skipIfKeyDown x | skipIfKeyUp x | loadGlyphAddress x =>
    have := (s.getV x).isLt
    rw [faultOf, Option.ite_none_right_eq_some] at h
    cases h.2
    omega
  | _ => cases h

/-- The record's 16 bits hold the information of the table. -/
theorem faultOf_info_toNat {i : Instr} {s : State} {c : FaultCause} {info : Nat}
    (h : faultOf i s = some (c, info)) : (BitVec.ofNat 16 info).toNat = info :=
  Nat.mod_eq_of_lt (faultOf_info_lt h)

/-- An operation with a fault in the table changes `PC` and `FAULT` alone, and latches the record of
that fault. -/
theorem exec_faults {i : Instr} {s : State} {c : FaultCause} {info : Nat}
    (h : faultOf i s = some (c, info)) : ∃ t, exec i s = .next t ∧ SameBut [.pc, .fault] s t ∧
      t.pc = s.pc - 2 ∧
      ∃ r, t.fault = some r ∧ r.cause = c ∧ r.pc = s.pc - 2 ∧ r.info.toNat = info :=
  ⟨_, exec_of_faultOf_some h, raise_sameBut c _ s, rfl, _, rfl, rfl, rfl, faultOf_info_toNat h⟩

end Sys2Proof.Proofs
end

section
/-! PROOF. The Step (40_step_cycle.md R90 to R97): it is total, a halted core never changes, each
timer counts once, and a fault is precise (60_exceptions.md R190, R192). -/

namespace Sys2Proof.Proofs

open Sys2Proof.Machine Sys2Proof.Safety

/-! ## The Step -/

theorem dispatchWord_total (w : Word) (s : State) : ∃ t, dispatchWord w s = .next t := by
  cases h : decodeWord w with
  | ok i => exact dispatchWord_ok h s ▸ exec_total i s
  | error r => exact ⟨s, dispatchWord_error h s⟩

/-- Settles O11: the halt, the fetch fault and the dispatch each answer a next state. -/
theorem everyStepAnswersANextState : Obligations.EveryStepAnswersANextState := by
  intro s
  obtain ⟨-, h⟩ | ⟨-, -, h⟩ | ⟨-, -, h⟩ := step_cases s
  · exact ⟨_, h⟩
  · exact ⟨_, h⟩
  · obtain ⟨u, hu⟩ :=
      dispatchWord_total (s.readByte s.pc.toNat ++ s.readByte (s.pc.toNat + 1)) s.advancePc
    rw [hu] at h
    exact ⟨_, h⟩

theorem step_of_halted {s : State} (h : s.fault ≠ none) : step s = .next s := by
  have halted : s.halted = true := by simpa using h
  rw [step, if_pos halted]

/-- Settles O9: a halted core's Step answers the state itself, so any number of them does. -/
theorem haltedCoreNeverChanges : Obligations.HaltedCoreNeverChanges :=
  fun s k h => run_of_step_eq core s (step_of_halted h) k

/-- Settles O10: the fetch raises the fault before `PC` advances. -/
theorem fetchOutsideMemoryFaults : Obligations.FetchOutsideMemoryFaults := by
  intro s hs hp
  obtain ⟨hf, -⟩ | ⟨-, -, h⟩ | ⟨-, within, -⟩ := step_cases s
  · exact absurd hs hf
  · exact h
  · omega

theorem decodeWord_of_decode {hi lo : Byte} {i : Instr} {rest : List Byte}
    (h : decode [hi, lo] = .ok (i, rest)) : decodeWord (hi ++ lo) = .ok i := by
  simp only [decode] at h
  split at h
  next hd =>
    cases h
    exact hd
  next => cases h

/-- Settles O7: the Step is the dispatch it names and the end of the Step, which counts the timers
unless a fault is latched. -/
theorem stepRunsTheDecodedInstruction : Obligations.StepRunsTheDecodedInstruction := by
  intro s t i hs hp hd ht
  have runs : Runs s i := ⟨_, ⟨hs, hp, append_toNat _ _⟩, decodeWord_of_decode hd⟩
  have stepped : step s = endStep (.next t) := (step_of_runs runs).trans (congrArg endStep ht)
  refine ⟨fun latched => ?_, fun running => ?_⟩
  · have halted : t.halted = true := by simpa using latched
    simp [stepped, endStep, halted]
  · exact stepped.trans (endStep_of_running running)

/-! ## Everything a running core's Step can do -/

@[simp] theorem faultOf_advancePc (i : Instr) (s : State) :
    faultOf i s.advancePc = faultOf i s := by
  cases i with
  | _ => rfl

/-- A fault of dispatch takes back the advance of the fetch. -/
@[simp] theorem raise_advancePc (c : FaultCause) (info : Word) (s : State) :
    raise c info s.advancePc = raiseAt s.pc c info s := by
  simp [raise, raiseAt, State.advancePc, State.setPc]

/-- The Step of an operation that the table gives no fault: its effect with `PC` advanced, then one
count of the timers. -/
theorem step_of_runs_effect {s : State} {i : Instr} (h : Runs s i) (hf : faultOf i s = none) :
    step s = .next (tickTimers (effect i s.advancePc)) := by
  have hs : s.fault = none := fault_of_runs h
  have running : (effect i s.advancePc).fault = none := (effect_fault i s.advancePc).trans hs
  rw [step_of_runs h, exec_of_faultOf_none ((faultOf_advancePc i s).trans hf),
    endStep_of_running running]

/-- The Step of an operation with a fault in the table: the fault entry at the `PC` it began at. -/
theorem step_of_runs_fault {s : State} {i : Instr} {c : FaultCause} {info : Nat} (h : Runs s i)
    (hf : faultOf i s = some (c, info)) :
    step s = .next (raiseAt s.pc c (BitVec.ofNat 16 info) s) := by
  rw [step_of_runs h, exec_of_faultOf_some ((faultOf_advancePc i s).trans hf), raise_advancePc]
  rfl

/-- Everything the Step of `s` can be (40_step_cycle.md R90, R94; 60_exceptions.md R190). -/
inductive StepCase (s : State) : State → Prop
  /-- a halted core stays as it is -/
  | halted (hs : s.fault ≠ none) : StepCase s s
  /-- the fetch raises FetchFault -/
  | fetchFault (hs : s.fault = none) (hp : 0xFFE < s.pc.toNat) : StepCase s (raiseFetch s)
  /-- the operation raises its fault of the table, with `PC` where the Step began -/
  | fault {i : Instr} {c : FaultCause} {info : Nat} (hs : s.fault = none) (hp : s.pc.toNat ≤ 0xFFE)
    (runs : Runs s i) (hf : faultOf i s = some (c, info)) :
    StepCase s (raiseAt s.pc c (BitVec.ofNat 16 info) s)
  /-- the operation has its effect, with `PC` advanced, and the timers count -/
  | effect {i : Instr} (hs : s.fault = none) (hp : s.pc.toNat ≤ 0xFFE) (runs : Runs s i)
    (hf : faultOf i s = none) : StepCase s (tickTimers (effect i s.advancePc))
  /-- the word is no operation: `PC` advances and the timers count -/
  | unrecognised (hs : s.fault = none) (hp : s.pc.toNat ≤ 0xFFE) (none_runs : ∀ i, ¬ Runs s i) :
    StepCase s (tickTimers s.advancePc)

theorem stepCase_of_step {s t : State} (h : step s = .next t) : StepCase s t := by
  obtain ⟨hs, hstep⟩ | ⟨hs, hp, hstep⟩ | ⟨hs, hp, -⟩ := step_cases s
  · cases hstep.symm.trans h
    exact .halted hs
  · cases hstep.symm.trans h
    exact .fetchFault hs hp
  · have fetched : Fetches s (s.readByte s.pc.toNat ++ s.readByte (s.pc.toNat + 1)) :=
      ⟨hs, hp, append_toNat _ _⟩
    cases hd : decodeWord (s.readByte s.pc.toNat ++ s.readByte (s.pc.toNat + 1)) with
    | error r =>
      have none_runs : ∀ i, ¬ Runs s i := by
        rintro i ⟨w, hw, hi⟩
        cases fetches_unique fetched hw
        cases hd.symm.trans hi
      have running : s.advancePc.fault = none := hs
      rw [step_of_fetches fetched, dispatchWord_error hd, endStep_of_running running] at h
      cases h
      exact .unrecognised hs hp none_runs
    | ok i =>
      have runs : Runs s i := ⟨_, fetched, hd⟩
      cases hf : faultOf i s with
      | none =>
        cases h.symm.trans (step_of_runs_effect runs hf)
        exact .effect hs hp runs hf
      | some f =>
        cases h.symm.trans (step_of_runs_fault runs hf)
        exact .fault hs hp runs hf

theorem runs_unique {s : State} {i j : Instr} (hi : Runs s i) (hj : Runs s j) : i = j := by
  obtain ⟨w, hw, hi⟩ := hi
  obtain ⟨w', hw', hj⟩ := hj
  cases fetches_unique hw hw'
  cases hi.symm.trans hj
  rfl

/-- Settles O16: of the Steps that end with a fault, one began with it, and the others enter it at
the `PC` they began at. -/
theorem faultsArePrecise : Obligations.FaultsArePrecise := by
  intro s t hs h latched
  cases stepCase_of_step h with
  | halted hf => exact absurd hs hf
  | fetchFault _ hp => exact ⟨⟨.fetchFault, s.pc, s.pc⟩, rfl, rfl, .inl ⟨hp, rfl, rfl⟩⟩
  | @fault i c info _ hp runs hf =>
    have tabled : faultOf i s = some (c, (BitVec.ofNat 16 info).toNat) := by
      rw [hf, faultOf_info_toNat hf]
    exact ⟨⟨c, s.pc, BitVec.ofNat 16 info⟩, rfl, rfl, .inr ⟨hp, i, runs, tabled⟩⟩
  | @effect i => exact absurd ((effect_fault i s.advancePc).trans hs) latched
  | unrecognised => exact absurd hs latched

/-! ## The timers -/

theorem effect_dt (i : Instr) (s : State) : (effect i s).dt = dtDispatched i s := by
  cases i with
  | setDelayTimer x => rfl
  | _ => exact effect_sameBut _ s .dt (by simp [partsWritten])

theorem effect_st (i : Instr) (s : State) : (effect i s).st = stDispatched i s := by
  cases i with
  | setSoundTimer x => rfl
  | _ => exact effect_sameBut _ s .st (by simp [partsWritten])

theorem dtDispatched_advancePc (i : Instr) (s : State) :
    dtDispatched i s.advancePc = dtDispatched i s := by
  cases i with
  | _ => rfl

theorem stDispatched_advancePc (i : Instr) (s : State) :
    stDispatched i s.advancePc = stDispatched i s := by
  cases i with
  | _ => rfl

/-- Settles O12: a fault entry leaves the timers; a Step that completes is one effect, which writes
at most the timer of its rule, and one count. -/
theorem timersCountOncePerStep : Obligations.TimersCountOncePerStep := by
  intro s t hs h
  cases stepCase_of_step h with
  | halted hf => exact absurd hs hf
  | fetchFault | fault => exact ⟨fun _ => ⟨rfl, rfl⟩, fun running => nomatch running⟩
  | @effect i _ _ runs _ =>
    refine ⟨fun latched => absurd ((effect_fault i s.advancePc).trans hs) latched, fun _ =>
      ⟨fun j runs' => ?_, fun none_runs => absurd runs (none_runs i)⟩⟩
    cases runs_unique runs runs'
    rw [tickTimers_dt, tickTimers_st, countDown_toNat, countDown_toNat, effect_dt, effect_st,
      dtDispatched_advancePc, stDispatched_advancePc]
    exact ⟨rfl, rfl⟩
  | unrecognised _ _ none_runs =>
    refine ⟨fun latched => absurd hs latched, fun _ =>
      ⟨fun i runs => absurd runs (none_runs i), fun _ => ?_⟩⟩
    exact ⟨countDown_toNat s.dt, countDown_toNat s.st⟩

end Sys2Proof.Proofs
end

section
/-! PROOF. The invariant (10_state.md R30, R32; 60_exceptions.md R186): every Step keeps it, the
reset state meets it, and so every sequence of host operations keeps it. -/

namespace Sys2Proof.Proofs

open Sys2Proof.Machine Sys2Proof.Safety

/-! ## What the invariant bounds, over a completed dispatch -/

theorem advancePc_pc_toNat {s : State} (hp : s.pc.toNat ≤ 0xFFE) :
    s.advancePc.pc.toNat = s.pc.toNat + 2 := by
  rw [State.advancePc_pc, BitVec.toNat_add, show (2 : Word).toNat = 2 from rfl]
  omega

/-- An operation that does not store leaves the memory's data, not only its bytes, as they were. -/
theorem effect_mem {i : Instr} {s : State} (hi : .mem ∉ partsWritten i) :
    (effect i s).mem = s.mem := by
  cases i with
  | storeBcd | storeRegisters => exact absurd (List.mem_singleton_self _) hi
  | ret | waitForKey =>
    simp only [effect]
    split <;> rfl
  | randomAnd =>
    simp only [effect, State.setV_mem]
    rw [consumeRnd_rest]
  | loadRegisters =>
    simp only [effect]
    rw [setBlock_rest]
  | skipIfEqual | skipIfNotEqual | skipIfRegistersEqual | skipIfRegistersNotEqual | skipIfKeyDown
  | skipIfKeyUp => simp only [effect, skipIf_eq, State.setPc_mem]
  | _ => rfl

/-- A store that the table gives no fault keeps memory canonical. -/
theorem effect_mem_wf {i : Instr} {s : State} (hf : faultOf i s = none)
    (h : Memory.wf s.mem = true) : Memory.wf (effect i s).mem = true := by
  cases i with
  | storeBcd x | storeRegisters x =>
    simp only [faultOf, ite_eq_right_iff, reduceCtorEq, imp_false, not_lt] at hf
    refine writeBlock_wf _ _ _ h ?_
    simp only [dataAddress, bcdDigits_length, registerBlock_length]
    omega
  | _ =>
    rw [effect_mem (by simp [partsWritten])]
    exact h

/-- The stack after an effect: pushed by call, popped by return, and otherwise as it was. -/
theorem effect_stack (i : Instr) (s : State) : (effect i s).stack =
    match i with
    | .call _ => s.pc :: s.stack
    | .ret => s.stack.tail
    | _ => s.stack := by
  cases i with
  | call => rfl
  | ret => cases h : s.stack with
    | nil | cons => simp [effect, h]
  | _ => exact effect_sameBut _ s .stack (by simp [partsWritten])

theorem effect_entries {i : Instr} {s : State} (hp : s.pc.toNat ≤ 0x1000)
    (h : ∀ a ∈ s.stack, a.toNat ≤ 0x1000) : ∀ a ∈ (effect i s).stack, a.toNat ≤ 0x1000 := by
  rw [effect_stack]
  cases i with
  | call => exact List.forall_mem_cons.2 ⟨hp, h⟩
  | ret => exact fun a ha => h a (List.mem_of_mem_tail ha)
  | _ => exact h

theorem stackFits_mono {d : StackDepth} {m n : Nat} (h : StackFits d n) (hmn : m ≤ n) :
    StackFits d m := by
  cases d with
  | unbounded => trivial
  | limit depth => exact Nat.le_trans hmn h

theorem stackFits_push {d : StackDepth} {n : Nat} (h : StackFits d n) (not_full : d ≠ .limit n) :
    StackFits d (n + 1) := by
  cases d with
  | unbounded => trivial
  | limit depth => exact Nat.lt_of_le_of_ne h fun eq => not_full (by rw [eq])

theorem effect_depth {i : Instr} {s : State} (hf : faultOf i s = none)
    (h : StackFits s.stackDepth s.stack.length) :
    StackFits (effect i s).stackDepth (effect i s).stack.length := by
  rw [effect_stackDepth, effect_stack]
  cases i with
  | call nnn => exact stackFits_push h (by simpa [faultOf] using hf)
  | ret => exact stackFits_mono h (by simp)
  | _ => exact h

/-- The net `PC` of a Step that raises no fault (10_state.md R29) is at most 0x10FE, which
jump-with-offset reaches. -/
theorem netPc_le {i : Instr} {s : State} {pc : Word} (hp : s.pc.toNat ≤ 0xFFE)
    (entries : ∀ a ∈ s.stack, a.toNat ≤ 0x1000) (h : NetPc i s pc) : pc.toNat ≤ 0x10FE := by
  have plus_two : (s.pc + 2).toNat ≤ 0x10FE := by
    rw [BitVec.toNat_add, show (2 : Word).toNat = 2 from rfl]
    omega
  have plus_four : (s.pc + 4).toNat ≤ 0x10FE := by
    rw [BitVec.toNat_add, show (4 : Word).toNat = 4 from rfl]
    omega
  have by_cases_on {P : Prop} {a b : Word} (ha : a.toNat ≤ 0x10FE) (hb : b.toNat ≤ 0x10FE)
      (h : (P → pc = a) ∧ (¬ P → pc = b)) : pc.toNat ≤ 0x10FE := by
    by_cases hP : P
    · rwa [h.1 hP]
    · rwa [h.2 hP]
  cases i with
  | jump nnn | call nnn =>
    have := nnn.isLt
    simp only [NetPc] at h
    omega
  | jumpWithOffset nnn =>
    have := nnn.isLt
    have := (s.getV 0).isLt
    simp only [NetPc] at h
    omega
  | ret =>
    simp only [NetPc] at h
    split at h
    next a rest hs =>
      have := entries a (by simp [hs])
      rw [h]
      omega
    next => rwa [h]
  | waitForKey => exact by_cases_on (by omega) plus_two h
  | _ => exact by_cases_on plus_four plus_two h

/-! ## The latched record -/

/-- The record of a fault entered from dispatch is the one its cause records. -/
theorem recordFits_of_faultOf {i : Instr} {s : State} {c : FaultCause} {info : Nat}
    (hp : s.pc.toNat ≤ 0xFFE) (hf : faultOf i s = some (c, info)) :
    RecordFits (raiseAt s.pc c (BitVec.ofNat 16 info) s) ⟨c, s.pc, BitVec.ofNat 16 info⟩ := by
  have info_kept : (BitVec.ofNat 16 info).toNat = info := faultOf_info_toNat hf
  refine ⟨rfl, ?_⟩
  cases i with
  | call nnn =>
    rw [faultOf, Option.ite_none_right_eq_some] at hf
    obtain ⟨full, eq⟩ := hf
    cases eq
    exact ⟨hp, info_kept.trans_le (Nat.le_of_lt_succ nnn.isLt), full⟩
  | drawSprite | storeBcd | storeRegisters | loadRegisters =>
    rw [faultOf, Option.ite_none_right_eq_some] at hf
    cases hf.2
    exact ⟨hp, info_kept⟩
  | skipIfKeyDown x | skipIfKeyUp x | loadGlyphAddress x =>
    rw [faultOf, Option.ite_none_right_eq_some] at hf
    obtain ⟨above, eq⟩ := hf
    cases eq
    exact ⟨hp, above.trans_eq info_kept.symm,
      info_kept.trans_le (Nat.le_of_lt_succ (s.getV x).isLt)⟩
  | _ => cases hf

/-! ## The Step -/

/-- Settles O17: a fault changes the latch alone, and its record fits; a Step that completes has an
effect that keeps memory canonical and the stack bounded, and its net `PC` is in bounds. -/
theorem stepKeepsInvariant : Obligations.StepKeepsInvariant := by
  intro s t h hstep
  cases stepCase_of_step hstep with
  | halted => exact h
  | fetchFault _ hp =>
    refine ⟨h.mem, h.pc, h.entries, h.depth, h.positive, fun r hr => ?_⟩
    cases hr
    exact ⟨rfl, hp, rfl⟩
  | fault _ hp _ hf =>
    refine ⟨h.mem, h.pc, h.entries, h.depth, h.positive, fun r hr => ?_⟩
    cases hr
    exact recordFits_of_faultOf hp hf
  | @effect i hs hp runs hf =>
    have advanced : s.advancePc.pc.toNat ≤ 0x1000 := by
      rw [advancePc_pc_toNat hp]
      omega
    have no_fault : faultOf i s.advancePc = none := (faultOf_advancePc i s).trans hf
    have running : (effect i s.advancePc).fault = none := (effect_fault i _).trans hs
    have net : NetPc i s (effect i s.advancePc).pc :=
      (netChangeOfPc s _ hs hstep running).1 i runs
    have positive : (effect i s.advancePc).stackDepth.wellFormed = true := by
      rw [effect_stackDepth]
      exact h.positive
    exact ⟨effect_mem_wf no_fault h.mem, netPc_le hp h.entries net,
      effect_entries advanced h.entries, effect_depth no_fault h.depth, positive,
      fun r hr => nomatch running.symm.trans hr⟩
  | unrecognised hs hp =>
    have pc_bound : s.advancePc.pc.toNat ≤ 0x10FE := by
      rw [advancePc_pc_toNat hp]
      omega
    exact ⟨h.mem, pc_bound, h.entries, h.depth, h.positive, fun r hr => nomatch hs.symm.trans hr⟩

/-! ## Reset and the host's operations -/

theorem resetWith_stateInv (g : Glyph) {d : StackDepth} (hd : d.wellFormed = true) :
    StateInv (State.resetWith g d) := by
  have mem : Memory.wf (Memory.writeBlock [] 0 g.toList) = true := writeBlock_wf _ _ _ rfl (by simp)
  have depth : StackFits d 0 := by
    cases d with
    | unbounded => trivial
    | limit depth => exact Nat.zero_le depth
  have pc : (0x200 : Word).toNat ≤ 0x10FE := by decide
  exact ⟨mem, pc, List.forall_mem_nil _, depth, hd, fun r hr => nomatch hr⟩

/-- `State.reset` is the reset state of the default glyphs and the unbounded depth: writing the
default glyphs over themselves lists no byte. -/
theorem reset_eq_resetWith : State.reset = State.resetWith Config.glyph .unbounded := by
  have mem : Memory.writeBlock [] 0 Config.glyph.toList = [] := by decide
  rw [State.resetWith, mem]
  rfl

/-- Settles O18: the reset state lists only glyph bytes, in canonical form, and every bound holds of
its constants. -/
theorem resetMeetsInvariant : Obligations.ResetMeetsInvariant := by
  refine ⟨?_, fun g d => resetWith_stateInv g⟩
  rw [reset_eq_resetWith]
  exact resetWith_stateInv Config.glyph rfl

/-- Load writes at most up to the end of memory (47_host_interface.md R171). -/
theorem hostLoad_stateInv {s : State} (h : StateInv s) (bytes : List Byte) :
    StateInv (hostLoad bytes s) := by
  have fits : 0x200 + (bytes.take 3584).length ≤ 0x1000 := by
    rw [List.length_take]
    omega
  exact ⟨writeBlock_wf _ _ _ h.mem fits, h.pc, h.entries, h.depth, h.positive, h.latch⟩

/-- The invariant does not look at the random input. -/
theorem stateInv_rnd {s : State} (h : StateInv s) (l : List Byte) (n : Nat) :
    StateInv { s with rndIn := l, rndCount := n } :=
  ⟨h.mem, h.pc, h.entries, h.depth, h.positive, h.latch⟩

theorem stepWith_of_step {b : Byte} {s u : State} (h : step { s with rndIn := [b] } = .next u) :
    stepWith b s = .next { u with rndIn := s.rndIn } := by
  simp only [stepWith, h]

/-- Step(rnd) is a Step between two changes of the queue. -/
theorem stepWith_next {b : Byte} {s t : State} (h : stepWith b s = .next t) :
    ∃ u, step { s with rndIn := [b] } = .next u ∧ t = { u with rndIn := s.rndIn } := by
  unfold stepWith at h
  split at h
  next u hu =>
    cases h
    exact ⟨u, hu, rfl⟩
  next => cases h
  next => cases h

theorem applyEvent_stateInv {e : HostEvent} {s t : State} (h : StateInv s)
    (he : applyEvent e s = .next t) : StateInv t := by
  cases e with
  | reset =>
    cases he
    exact stateInv_rnd (resetWith_stateInv s.glyph h.positive) s.rndIn s.rndCount
  | load bytes =>
    cases he
    exact hostLoad_stateInv h bytes
  | setInput keys =>
    cases he
    exact ⟨h.mem, h.pc, h.entries, h.depth, h.positive, h.latch⟩
  | step b =>
    obtain ⟨u, hu, rfl⟩ := stepWith_next he
    have stepped : StateInv u := stepKeepsInvariant _ u (stateInv_rnd h [b] s.rndCount) hu
    exact stateInv_rnd stepped s.rndIn u.rndCount

/-- What every host operation and Step keeps, every sequence of them keeps. -/
theorem runEvents_keeps {P : State → Prop}
    (keeps : ∀ e s t, P s → applyEvent e s = .next t → P t) {es : List HostEvent} {s t : State}
    (h : P s) (hrun : runEvents es s = .next t) : P t := by
  induction es generalizing s with
  | nil =>
    cases hrun
    exact h
  | cons e es ih =>
    rw [runEvents] at hrun
    split at hrun
    next u hu => exact ih (keeps e s u h hu) hrun
    next => cases hrun
    next => cases hrun

/-- Settles O19: each event keeps the invariant, so every sequence does. -/
theorem hostSequencesKeepInvariant : Obligations.HostSequencesKeepInvariant :=
  fun _ _ _ h hrun => runEvents_keeps (fun _ _ _ => applyEvent_stateInv) h hrun

end Sys2Proof.Proofs
end

section
/-! PROOF. What the Step reads of the sound timer and of the random input (10_state.md R33, R46;
47_host_interface.md R175), and the parameters through every sequence of events (R170). -/

namespace Sys2Proof.Proofs

open Sys2Proof.Machine Sys2Proof.Safety

/-! ## The fields that hardly any operation reads -/

/-- `s` with another sound timer and another random input. -/
def withUnread (a : Byte) (l : List Byte) (n : Nat) (s : State) : State :=
  { s with st := a, rndIn := l, rndCount := n }

section

variable (a : Byte) (l : List Byte) (n : Nat) (s : State)

theorem faultOf_withUnread (i : Instr) : faultOf i (withUnread a l n s) = faultOf i s := by
  cases i with
  | _ => rfl

theorem skipIf_withUnread (c : Bool) :
    (withUnread a l n s).skipIf c = withUnread a l n (s.skipIf c) := by
  cases c with
  | false | true => rfl

theorem setBlock_withUnread (k : Nat) (bs : List Byte) :
    (withUnread a l n s).setBlock k bs = withUnread a l n (s.setBlock k bs) := by
  induction bs generalizing s k with
  | nil => rfl
  | cons b bs ih => exact ih { s with v := s.v.setIfInBounds k b } (k + 1)

/-- An operation that writes neither the sound timer nor the random input reads neither. -/
theorem effect_withUnread {i : Instr} (hst : .st ∉ partsWritten i) (hrnd : .rnd ∉ partsWritten i) :
    effect i (withUnread a l n s) = withUnread a l n (effect i s) := by
  cases i with
  | setSoundTimer => exact absurd (List.mem_singleton_self _) hst
  | randomAnd => exact absurd (by simp [partsWritten]) hrnd
  | ret =>
    have stack_same : (withUnread a l n s).stack = s.stack := rfl
    simp only [effect, stack_same]
    cases s.stack with
    | nil | cons => rfl
  | waitForKey x =>
    have key_same : lowestKey (withUnread a l n s) = lowestKey s := rfl
    simp only [effect, key_same]
    cases lowestKey s with
    | none | some => rfl
  | skipIfEqual | skipIfNotEqual | skipIfRegistersEqual | skipIfRegistersNotEqual | skipIfKeyDown
  | skipIfKeyUp => exact skipIf_withUnread a l n s _
  | loadRegisters => exact setBlock_withUnread a l n s 0 _
  | _ => rfl

end

/-! ## No operation reads the sound timer -/

theorem consumeRnd_setSt (s : State) (a : Byte) :
    consumeRnd (s.setSt a) = (consumeRnd s).setSt a := by
  have rndIn_same : (s.setSt a).rndIn = s.rndIn := rfl
  simp only [consumeRnd, rndIn_same]
  cases s.rndIn with
  | nil | cons => rfl

/-- An effect carries the sound timer along unread, or overwrites it. -/
theorem effect_setSt (i : Instr) (s : State) (a : Byte) :
    (effect i (s.setSt a)).setSt 0 = (effect i s).setSt 0 := by
  have carried (hst : .st ∉ partsWritten i) (hrnd : .rnd ∉ partsWritten i) :
      (effect i (s.setSt a)).setSt 0 = (effect i s).setSt 0 := by
    obtain ⟨rndIn_same, rndCount_same⟩ := effect_sameBut i s .rnd (by simp [hrnd])
    calc (effect i (s.setSt a)).setSt 0
        = (withUnread a s.rndIn s.rndCount (effect i s)).setSt 0 :=
          congrArg (·.setSt 0) (effect_withUnread a s.rndIn s.rndCount s hst hrnd)
      _ = (effect i s).setSt 0 := by
          rw [← rndIn_same, ← rndCount_same]
          rfl
  cases i with
  | setSoundTimer => rfl
  | randomAnd x kk =>
    have byte_same : rndByte (s.setSt a) = rndByte s := rfl
    simp only [effect, consumeRnd_setSt, byte_same]
    rfl
  | _ => exact carried (by simp [partsWritten]) (by simp [partsWritten])

/-- Settles O23: with another `ST` the table gives the same fault, and an effect differs in `ST` at
most. -/
theorem noOperationReadsTheSoundTimer : Obligations.NoOperationReadsTheSoundTimer := by
  intro i s a
  have faults_same : faultOf i (s.setSt a) = faultOf i s :=
    faultOf_withUnread a s.rndIn s.rndCount s i
  cases hf : faultOf i s with
  | none =>
    exact ⟨_, _, exec_of_faultOf_none hf, exec_of_faultOf_none (faults_same.trans hf),
      (effect_setSt i s a).symm⟩
  | some f =>
    exact ⟨_, _, exec_of_faultOf_some hf, exec_of_faultOf_some (faults_same.trans hf), rfl⟩

/-! ## Only random-and reads the random byte -/

/-- `s` with another queue of random bytes. -/
def withRndIn (l : List Byte) (s : State) : State := { s with rndIn := l }

/-- An effect other than random-and's carries the queue along unread. -/
theorem effect_withRndIn {i : Instr} (hi : ∀ x kk, i ≠ .randomAnd x kk) (l : List Byte)
    (s : State) : effect i (withRndIn l s) = withRndIn l (effect i s) := by
  have carried (hst : .st ∉ partsWritten i) (hrnd : .rnd ∉ partsWritten i) :
      effect i (withRndIn l s) = withRndIn l (effect i s) := by
    have st_same : (effect i s).st = s.st := effect_sameBut i s .st (by simp [hst])
    obtain ⟨-, rndCount_same⟩ := effect_sameBut i s .rnd (by simp [hrnd])
    calc effect i (withRndIn l s)
        = withUnread s.st l s.rndCount (effect i s) :=
          effect_withUnread s.st l s.rndCount s hst hrnd
      _ = withRndIn l (effect i s) := by
          rw [← st_same, ← rndCount_same]
          rfl
  cases i with
  | randomAnd x kk => exact absurd rfl (hi x kk)
  | setSoundTimer => rfl
  | _ => exact carried (by simp [partsWritten]) (by simp [partsWritten])

theorem exec_withRndIn {i : Instr} {s t : State} (hi : ∀ x kk, i ≠ .randomAnd x kk)
    (h : exec i s = .next t) (l : List Byte) :
    exec i (withRndIn l s) = .next (withRndIn l t) := by
  have faults_same : faultOf i (withRndIn l s) = faultOf i s :=
    faultOf_withUnread s.st l s.rndCount s i
  obtain ⟨c, info, hf, rfl⟩ | ⟨hf, rfl⟩ := exec_next_cases h
  · exact exec_of_faultOf_some (faults_same.trans hf)
  · rw [exec_of_faultOf_none (faults_same.trans hf), effect_withRndIn hi]

theorem endStep_withRndIn {u t : State} (h : endStep (.next u) = .next t) (l : List Byte) :
    endStep (.next (withRndIn l u)) = .next (withRndIn l t) := by
  have halted_same : (withRndIn l u).halted = u.halted := rfl
  simp only [endStep, halted_same] at h ⊢
  cases h
  split <;> rfl

/-- A Step that does not run random-and carries the queue along unread. -/
theorem step_withRndIn {s : State} (h : ∀ x kk, ¬ Runs s (.randomAnd x kk)) :
    ∃ t, ∀ l, step (withRndIn l s) = .next (withRndIn l t) := by
  obtain ⟨hs, -⟩ | ⟨hs, hp, -⟩ | ⟨hs, hp, -⟩ := step_cases s
  · exact ⟨s, fun l => step_of_halted hs⟩
  · exact ⟨raiseFetch s, fun l => fetchOutsideMemoryFaults (withRndIn l s) hs hp⟩
  · have fetched (l : List Byte) : Fetches (withRndIn l s)
        (s.readByte s.pc.toNat ++ s.readByte (s.pc.toNat + 1)) := ⟨hs, hp, append_toNat _ _⟩
    cases hd : decodeWord (s.readByte s.pc.toNat ++ s.readByte (s.pc.toNat + 1)) with
    | error r =>
      refine ⟨tickTimers s.advancePc, fun l => ?_⟩
      rw [step_of_fetches (fetched l), dispatchWord_error hd]
      exact endStep_of_running hs
    | ok i =>
      have not_random (x : Reg) (kk : Byte) : i ≠ .randomAnd x kk := by
        rintro rfl
        exact h x kk ⟨_, fetched s.rndIn, hd⟩
      obtain ⟨u, hu⟩ := exec_total i s.advancePc
      obtain ⟨t, ht⟩ : ∃ t, endStep (.next u) = .next t := ⟨_, rfl⟩
      refine ⟨t, fun l => ?_⟩
      rw [step_of_fetches (fetched l), dispatchWord_ok hd]
      exact (congrArg endStep (exec_withRndIn not_random hu l)).trans (endStep_withRndIn ht l)

/-- Settles O22: whatever byte is queued, such a Step answers one state, and the queue is put back.
-/
theorem onlyRandomAndReadsTheRandomByte : Obligations.OnlyRandomAndReadsTheRandomByte := by
  intro s b c h
  obtain ⟨t, stepped⟩ := step_withRndIn h
  exact (stepWith_of_step (stepped [b])).trans (stepWith_of_step (stepped [c])).symm

/-! ## The parameters, and the random input between events -/

/-- Two states of one core, with the random input in one place: what Reset sees of a state. -/
def SameCore (s t : State) : Prop :=
  t.glyph = s.glyph ∧ t.stackDepth = s.stackDepth ∧ t.rndIn = s.rndIn ∧ t.rndCount = s.rndCount

/-- An effect that finds a byte queued draws no free one. -/
theorem effect_rndCount (i : Instr) {s : State} (h : s.rndIn ≠ []) :
    (effect i s).rndCount = s.rndCount := by
  cases i with
  | randomAnd x kk =>
    cases hs : s.rndIn with
    | nil => exact absurd hs h
    | cons b rest => simp only [effect, State.setV_rndCount, consumeRnd, hs]
  | _ => exact (effect_sameBut _ s .rnd (by simp [partsWritten])).2

theorem step_keeps_core {s t : State} (h : s.rndIn ≠ []) (hstep : step s = .next t) :
    t.glyph = s.glyph ∧ t.stackDepth = s.stackDepth ∧ t.rndCount = s.rndCount := by
  cases stepCase_of_step hstep with
  | halted | fetchFault | fault | unrecognised => exact ⟨rfl, rfl, rfl⟩
  | @effect i =>
    exact ⟨effect_glyph i s.advancePc, effect_stackDepth i s.advancePc,
      effect_rndCount i (s := s.advancePc) h⟩

theorem applyEvent_sameCore {e : HostEvent} {s t : State} (he : applyEvent e s = .next t) :
    SameCore s t := by
  cases e with
  | reset | load | setInput =>
    cases he
    exact ⟨rfl, rfl, rfl, rfl⟩
  | step b =>
    obtain ⟨u, hu, rfl⟩ := stepWith_next he
    obtain ⟨glyph, depth, rndCount⟩ := step_keeps_core (List.cons_ne_nil b []) hu
    exact ⟨glyph, depth, rfl, rndCount⟩

theorem sameCore_trans {s t u : State} (h : SameCore s t) (h' : SameCore t u) : SameCore s u := by
  obtain ⟨glyph, depth, rndIn, rndCount⟩ := h
  obtain ⟨glyph', depth', rndIn', rndCount'⟩ := h'
  exact ⟨glyph'.trans glyph, depth'.trans depth, rndIn'.trans rndIn, rndCount'.trans rndCount⟩

/-- Settles O57: every event keeps all that Reset sees of a state, so Reset gives the state it would
have given at the start, which is the starting one. -/
theorem resetGivesTheSameStateEachTime : Obligations.ResetGivesTheSameStateEachTime := by
  intro es g d t hrun
  have kept : SameCore (State.resetWith g d) t :=
    runEvents_keeps (fun _ _ _ h he => sameCore_trans h (applyEvent_sameCore he))
      ⟨rfl, rfl, rfl, rfl⟩ hrun
  obtain ⟨glyph, depth, rndIn, rndCount⟩ := kept
  have reset_same := hostReset_congr (State.resetWith g d) t glyph depth rndIn rndCount
  exact ⟨glyph, depth, reset_same.trans (hostReset_resetWith g d)⟩

end Sys2Proof.Proofs
end

section
/-! PROOF. Memory (20_memory.md R54, R59): reads after writes, the canonical form, and what stores
bytes in it: the two stores (43_index_memory.md R143, R144), Load (47_host_interface.md R171), the
reset state (10_state.md R47) and the model's own placing of an instruction. -/

namespace Sys2Proof.Proofs

open Sys2Proof.Machine Sys2Proof.Safety

/-! ## Reads and writes -/

/-- Settles O24: the two cases of the address, with the canonical form kept by the write. -/
theorem memoryReadAfterWrite : Obligations.MemoryReadAfterWrite := by
  intro m a b v h ha
  refine ⟨write_wf m a v h ha, ?_⟩
  by_cases hb : b = a
  · rw [if_pos hb, hb]
    exact read_write_same m 0 a v h
  · rw [if_neg hb]
    exact read_write_other m a b v hb

theorem wfFrom_cons {lo a : Nat} {v : Byte} {rest : Memory} :
    Memory.wfFrom lo ((a, v) :: rest) = true ↔
      lo ≤ a ∧ a ≤ 0xFFF ∧ v ≠ Config.resetByte a ∧ Memory.wfFrom (a + 1) rest = true := by
  simp only [Memory.wfFrom, Bool.and_eq_true, decide_eq_true_eq, and_assoc]

/-- A memory whose first listed address is `a` does not read as unlisted there. -/
theorem read_head_ne {lo a : Nat} {v : Byte} {rest : Memory}
    (h : Memory.wfFrom lo ((a, v) :: rest) = true) :
    Memory.read ((a, v) :: rest) a ≠ Config.resetByte a := by
  obtain ⟨-, -, differs, -⟩ := wfFrom_cons.1 h
  simpa only [Memory.read, if_true] using differs

/-- Canonical memories that read the same are the same list: neither can list a first address below
the other's. -/
theorem eq_of_read_eq {m m' : Memory} {lo : Nat} (h : Memory.wfFrom lo m = true)
    (h' : Memory.wfFrom lo m' = true) (same : ∀ a, Memory.read m a = Memory.read m' a) :
    m = m' := by
  induction m generalizing m' lo with
  | nil =>
    cases m' with
    | nil => rfl
    | cons c rest => exact absurd (same c.1).symm (read_head_ne h')
  | cons c rest ih =>
    obtain ⟨a, v⟩ := c
    cases m' with
    | nil => exact absurd (same a) (read_head_ne h)
    | cons c' rest' =>
      obtain ⟨b, w⟩ := c'
      obtain ⟨-, a_le, v_ne, rest_wf⟩ := wfFrom_cons.1 h
      obtain ⟨-, b_le, w_ne, rest_wf'⟩ := wfFrom_cons.1 h'
      rcases lt_trichotomy a b with lt | rfl | gt
      · have unlisted : Memory.read ((b, w) :: rest') a = Config.resetByte a :=
          read_of_lt _ b a (wfFrom_cons.2 ⟨le_rfl, b_le, w_ne, rest_wf'⟩) lt
        exact absurd ((same a).trans unlisted) (read_head_ne h)
      · have v_eq : v = w := by simpa [Memory.read] using same a
        have rest_same (c : Nat) : Memory.read rest c = Memory.read rest' c := by
          by_cases hc : a = c
          · rw [read_of_lt rest (a + 1) c rest_wf (by omega),
              read_of_lt rest' (a + 1) c rest_wf' (by omega)]
          · simpa only [Memory.read, if_neg hc] using same c
        rw [v_eq, ih rest_wf rest_wf' rest_same]
      · have unlisted : Memory.read ((a, v) :: rest) b = Config.resetByte b :=
          read_of_lt _ a b (wfFrom_cons.2 ⟨le_rfl, a_le, v_ne, rest_wf⟩) gt
        exact absurd ((same b).symm.trans unlisted) (read_head_ne h')

/-- Settles O25: the canonical form from address 0. -/
theorem memoryFormIsCanonical : Obligations.MemoryFormIsCanonical :=
  fun _ _ => eq_of_read_eq

/-! ## A block of bytes stored in a state's memory -/

/-- `s` with the bytes stored from `a` on. -/
def storeBytes (a : Nat) (bs : List Byte) (s : State) : State :=
  s.setMem (Memory.writeBlock s.mem a bs)

theorem readByte_storeBytes {s : State} {a j : Nat} {bs : List Byte} (h : Memory.wf s.mem = true)
    (fits : a + bs.length ≤ 0x1000) (hj : j < bs.length) :
    (storeBytes a bs s).readByte (a + j) = bs[j] :=
  read_writeBlock_same bs s.mem a j h fits hj

theorem readByte_storeBytes_other {s : State} {a c : Nat} {bs : List Byte}
    (hc : c < a ∨ a + bs.length ≤ c) : (storeBytes a bs s).readByte c = s.readByte c :=
  read_writeBlock_other bs s.mem a c hc

theorem storeBytes_sameBut (a : Nat) (bs : List Byte) (s : State) :
    SameBut [.mem] s (storeBytes a bs s) :=
  setMem_sameBut s _

/-! ## The stores -/

theorem exec_storeBcd_in {x : Reg} {s : State} (h : s.index.toNat + 2 ≤ 0xFFF) :
    exec (.storeBcd x) s = .next (storeBytes s.index.toNat (bcdDigits (s.getV x)) s) :=
  exec_of_faultOf_none (if_neg (Nat.not_lt.2 h))

theorem exec_storeRegisters_in {x : Reg} {s : State} (h : s.index.toNat + x.val ≤ 0xFFF) :
    exec (.storeRegisters x) s = .next (storeBytes s.index.toNat (registerBlock x s) s) :=
  exec_of_faultOf_none (if_neg (Nat.not_lt.2 h))

theorem exec_loadRegisters_in {x : Reg} {s : State} (h : s.index.toNat + x.val ≤ 0xFFF) :
    exec (.loadRegisters x) s =
      .next (s.setBlock 0 (Memory.readBlock s.mem s.index.toNat (x.val + 1))) :=
  exec_of_faultOf_none (if_neg (Nat.not_lt.2 h))

/-- Settles O43: inside memory store-bcd stores the block of the three digits; outside, the table
has its fault. -/
theorem storeBcdWritesThreeDigits : Obligations.StoreBcdWritesThreeDigits := by
  intro x s
  refine ⟨fun within => ?_, fun out => exec_faults (if_pos out)⟩
  refine ⟨_, exec_storeBcd_in within, storeBytes_sameBut _ _ s, fun wf => ?_, fun a ha => ?_⟩
  · have := (s.getV x).isLt
    have fits : s.index.toNat + (bcdDigits (s.getV x)).length ≤ 0x1000 := by
      rw [bcdDigits_length]
      omega
    have stored {j d : Nat} (hj : j < (bcdDigits (s.getV x)).length) (hd : d < 256)
        (digit : (bcdDigits (s.getV x))[j] = BitVec.ofNat 8 d) :
        ((storeBytes s.index.toNat (bcdDigits (s.getV x)) s).readByte
          (s.index.toNat + j)).toNat = d := by
      rw [readByte_storeBytes wf fits hj, digit]
      exact Nat.mod_eq_of_lt hd
    exact ⟨stored (j := 0) (by simp) (by omega) rfl, stored (j := 1) (by simp) (by omega) rfl,
      stored (j := 2) (by simp) (by omega) rfl⟩
  · refine readByte_storeBytes_other ?_
    simp only [dataAddress, bcdDigits_length] at ha ⊢
    omega

theorem registerBlock_getElem {x k : Reg} (s : State) (h : k.val < (registerBlock x s).length) :
    (registerBlock x s)[k.val] = s.getV k := by
  simp [registerBlock, State.getV]

/-- Settles O44: inside memory store-registers stores the block of `V[0]` to `V[x]`; outside, the
table has its fault. -/
theorem storeRegistersCopiesTheBlock : Obligations.StoreRegistersCopiesTheBlock := by
  intro x s
  refine ⟨fun within => ?_, fun out => exec_faults (if_pos out)⟩
  refine ⟨_, exec_storeRegisters_in within, storeBytes_sameBut _ _ s, fun wf k hk => ?_,
    fun a ha => ?_⟩
  · have fits : s.index.toNat + (registerBlock x s).length ≤ 0x1000 := by
      rw [registerBlock_length]
      omega
    have listed : k.val < (registerBlock x s).length := by
      rw [registerBlock_length]
      exact Nat.lt_succ_of_le hk
    rw [readByte_storeBytes wf fits listed, registerBlock_getElem]
  · refine readByte_storeBytes_other ?_
    simp only [dataAddress, registerBlock_length] at ha ⊢
    omega

/-- Settles O45: inside memory load-registers writes the block of registers with the block of bytes;
outside, the table has its fault. -/
theorem loadRegistersCopiesTheBlock : Obligations.LoadRegistersCopiesTheBlock := by
  intro x s
  refine ⟨fun within => ?_, fun out => exec_faults (if_pos out)⟩
  refine ⟨_, exec_loadRegisters_in within, setBlock_sameBut s _ _, fun k => ?_⟩
  rw [getV_setBlock]
  simp only [readBlock_length, readBlock_getElem, Nat.zero_le, true_and, Nat.sub_zero,
    Nat.lt_succ_iff, Fin.le_def, dite_eq_ite, State.readByte]

/-! ## The host's stores -/

/-- Settles O55: Load stores the block of the first 3584 bytes, which ends inside memory. -/
theorem loadCopiesAndTruncates : Obligations.LoadCopiesAndTruncates := by
  intro bytes s wf
  have fits : 0x200 + (bytes.take 3584).length ≤ 0x1000 := by
    rw [List.length_take]
    omega
  refine ⟨fun i b hb hi => ?_, fun a ha => ?_, setMem_sameBut s _⟩
  · obtain ⟨listed, rfl⟩ := List.getElem?_eq_some_iff.1 hb
    have kept : i < (bytes.take 3584).length := by
      rw [List.length_take]
      omega
    exact (readByte_storeBytes wf fits kept).trans List.getElem_take
  · refine readByte_storeBytes_other ?_
    rw [List.length_take] at fits ⊢
    omega

/-- The model's own placing stores the two bytes of the word at `PC`. -/
theorem withFetchWord_eq (s : State) (w : Word) :
    s.withFetchWord 16 w.toNat = storeBytes s.pc.toNat [highByte w, lowByte w] s := by
  have word_same : BitVec.ofNat 16 (w.toNat % 2 ^ 16) = w := by
    rw [Nat.mod_eq_of_lt w.isLt, BitVec.ofNat_toNat, BitVec.setWidth_eq]
  simp only [State.withFetchWord, word_same]
  rfl

/-- Settles O14: the block of two bytes at `PC` is what the next Step fetches. -/
theorem placedWordIsFetched : Obligations.PlacedWordIsFetched := by
  intro s w hs hp wf
  rw [withFetchWord_eq]
  have fits : s.pc.toNat + [highByte w, lowByte w].length ≤ 0x1000 := by
    simp only [List.length_cons, List.length_nil]
    omega
  refine ⟨⟨hs, hp, ?_⟩, fun a ha ha' => readByte_storeBytes_other ?_, storeBytes_sameBut _ _ s⟩
  · have high :
        (storeBytes s.pc.toNat [highByte w, lowByte w] s).readByte s.pc.toNat = highByte w :=
      readByte_storeBytes (j := 0) wf fits (by simp)
    have low :
        (storeBytes s.pc.toNat [highByte w, lowByte w] s).readByte (s.pc.toNat + 1) = lowByte w :=
      readByte_storeBytes (j := 1) wf fits (by simp)
    have pc_same : (storeBytes s.pc.toNat [highByte w, lowByte w] s).pc = s.pc := rfl
    rw [pc_same, high, low, ← append_toNat]
    exact congrArg BitVec.toNat (wordOfBytes_bytes w).symm
  · simp only [List.length_cons, List.length_nil]
    omega

/-! ## The reset state and SetInput -/

theorem resetWith_readByte_glyph (g : Glyph) (d : StackDepth) (a : Fin 80) :
    (State.resetWith g d).readByte a.val = g[a.val] := by
  have listed : a.val < g.toList.length := by
    rw [Vector.length_toList]
    exact a.isLt
  have stored := read_writeBlock_same g.toList [] 0 a.val rfl (by simp) listed
  rw [Nat.zero_add] at stored
  exact stored.trans (Vector.getElem_toList _)

theorem resetWith_readByte_zero (g : Glyph) (d : StackDepth) {a : Nat} (h : 80 ≤ a) :
    (State.resetWith g d).readByte a = 0 := by
  have outside : a < 0 ∨ 0 + g.toList.length ≤ a := by
    rw [Vector.length_toList]
    omega
  exact (read_writeBlock_other g.toList [] 0 a outside).trans (dif_neg (by omega))

theorem rndInput_sameBut (s : State) (l : List Byte) (n : Nat) :
    SameBut [.rnd] s { s with rndIn := l, rndCount := n } := by
  simp [sameBut_iff, State.getV, State.readByte]

theorem hostReset_rndIn (s : State) : (hostReset s).rndIn = s.rndIn := rfl

theorem hostReset_rndCount (s : State) : (hostReset s).rndCount = s.rndCount := rfl

/-- Settles O54: the reset state's fields are constants but for its memory, the block of the glyph
table; Reset from any state differs from it in the random input alone. -/
theorem resetStateIsAsTabled : Obligations.ResetStateIsAsTabled := by
  refine ⟨fun g d => ⟨fun k => ?_, rfl, rfl, rfl, rfl, rfl, fun r c => ?_, fun k => ?_,
    resetWith_readByte_glyph g d, fun a => resetWith_readByte_zero g d, rfl, rfl, rfl⟩,
    reset_eq_resetWith, fun s => ⟨?_, ?_⟩⟩
  · exact Vector.getElem_replicate _
  · exact (getElem_eq_pixel blankDisplay r c).trans (pixel_blankDisplay r c)
  · exact Vector.getElem_replicate _
  · exact rndInput_sameBut _ s.rndIn s.rndCount
  · simp [sameBut_iff, hostReset_rndIn, hostReset_rndCount]

/-- Settles O56: SetInput is one write of the snapshot, which the port lists bit by bit. -/
theorem setInputReplacesTheSnapshot : Obligations.SetInputReplacesTheSnapshot :=
  fun _ s => ⟨fun _ => Vector.getElem_ofFn _, setKeys_sameBut s _⟩

end Sys2Proof.Proofs
end

section
/-! PROOF. Calls and jumps (41_flow.md R103, R104, R109): below the depth, at it, and nested. -/

namespace Sys2Proof.Proofs

open Sys2Proof.Machine Sys2Proof.Safety

/-- Settles O27: jump-with-offset is one write of `PC`, whose value is the exact sum. -/
theorem jumpWithOffsetAddsV0 : Obligations.JumpWithOffsetAddsV0 :=
  fun nnn s => ⟨s.setPc (offsetTarget nnn s), rfl, offsetTarget_toNat nnn s, setPc_sameBut s _⟩

theorem exec_call_of_not_full {nnn : Addr} {s : State} (h : s.stackDepth ≠ .limit s.stack.length) :
    exec (.call nnn) s = .next ((s.pushReturn s.pc).setPc (zext16 nnn)) :=
  exec_of_faultOf_none (if_neg h)

/-- Settles O28: below the depth call is its push and its jump. -/
theorem callPushesAndJumps : Obligations.CallPushesAndJumps :=
  fun nnn s h =>
    ⟨_, exec_call_of_not_full h, rfl, zext16_toNat nnn, pushAndJump_sameBut s s.pc (zext16 nnn)⟩

/-- Settles O29: at the depth the table has call's fault. -/
theorem callOnFullStackFaults : Obligations.CallOnFullStackFaults :=
  fun _ _ h => exec_faults (if_pos h)

/-! ## Nested calls -/

theorem execAll_cons {i : Instr} {s t : State} (h : exec i s = .next t) (is : List Instr) :
    execAll (i :: is) s = execAll is t := by
  simp only [execAll, h]

theorem execAll_append {is : List Instr} {s t : State} (h : execAll is s = .next t)
    (js : List Instr) : execAll (is ++ js) s = execAll js t := by
  induction is generalizing s with
  | nil =>
    cases h
    rfl
  | cons i is ih =>
    obtain ⟨u, hu⟩ := exec_total i s
    rw [execAll_cons hu] at h
    rw [List.cons_append, execAll_cons hu, ih h]

/-- A return takes back the push and the jump of its call. -/
theorem exec_ret_of_call (s : State) (a : Word) :
    exec .ret ((s.pushReturn s.pc).setPc a) = .next s :=
  exec_ret_of_cons rfl

theorem stackFits_not_full {d : StackDepth} {m n : Nat} (h : StackFits d n) (hmn : m < n) :
    d ≠ .limit m := by
  rintro rfl
  exact absurd hmn (Nat.not_lt.2 h)

/-- Settles O31, by induction on the targets: the first call pushes, the inner calls unwind to just
there, and the last return takes the push back. -/
theorem nestedCallsUnwind : Obligations.NestedCallsUnwind := by
  intro targets
  induction targets with
  | nil => exact fun s _ => rfl
  | cons nnn targets ih =>
    intro s fits
    rw [List.length_cons] at fits
    have called := exec_call_of_not_full (nnn := nnn) (stackFits_not_full fits (by omega))
    have inner_fits : StackFits s.stackDepth (s.stack.length + 1 + targets.length) :=
      stackFits_mono fits (by omega)
    have unwound := ih ((s.pushReturn s.pc).setPc (zext16 nnn)) inner_fits
    rw [List.map_cons, List.length_cons, List.replicate_succ', List.cons_append,
      execAll_cons called, ← List.append_assoc, execAll_append unwound,
      execAll_cons (exec_ret_of_call s _)]
    rfl

end Sys2Proof.Proofs
end

section
/-! PROOF. The arithmetic and logic operations (42_alu.md R123 to R131). -/

namespace Sys2Proof.Proofs

open Sys2Proof.Machine Sys2Proof.Safety

/-- Settles O34: each of the three is one register write, of the bitwise result. -/
theorem bitwiseOperations : Obligations.BitwiseOperations := by
  intro x y s
  refine ⟨⟨_, rfl, setV_sameBut s x _, setV_regsSameBut s x _, fun j => ?_⟩,
    ⟨_, rfl, setV_sameBut s x _, setV_regsSameBut s x _, fun j => ?_⟩,
    ⟨_, rfl, setV_sameBut s x _, setV_regsSameBut s x _, fun j => ?_⟩⟩
  · rw [getV_setV_self]
    exact BitVec.getLsbD_or
  · rw [getV_setV_self]
    exact BitVec.getLsbD_and
  · rw [getV_setV_self]
    exact BitVec.getLsbD_xor

/-! ## The flags and results as numbers -/

theorem flag_toNat (P : Prop) [Decidable P] : (flag (decide P)).toNat = if P then 1 else 0 := by
  by_cases h : P <;> simp [flag, h]

theorem subResult_toNat (a b : Byte) : (subResult a b).toNat = (a.toNat + 256 - b.toNat) % 256 :=
  BitVec.toNat_ofNat _ 8

theorem shrResult_toNat (a : Byte) : (shrResult a).toNat = a.toNat / 2 := by
  have := a.isLt
  rw [shrResult, BitVec.toNat_ofNat]
  omega

theorem shrFlag_toNat (a : Byte) : (shrFlag a).toNat = a.toNat % 2 := by
  rw [shrFlag, flag_toNat]
  split <;> omega

theorem shlResult_toNat (a : Byte) : (shlResult a).toNat = 2 * a.toNat % 256 :=
  BitVec.toNat_ofNat _ 8

theorem shlFlag_toNat (a : Byte) : (shlFlag a).toNat = a.toNat / 128 := by
  have := a.isLt
  rw [shlFlag, flag_toNat]
  split <;> omega

theorem getV_resultThenFlag_toNat (x k : Reg) (r f : Byte) (s : State) :
    ((resultThenFlag x r f s).getV k).toNat =
      if k = 15 then f.toNat else if k = x then r.toNat else (s.getV k).toNat := by
  rw [getV_resultThenFlag, apply_ite BitVec.toNat, apply_ite BitVec.toNat]

theorem getV_flagThenResult_toNat (x k : Reg) (r f : Byte) (s : State) :
    ((flagThenResult x r f s).getV k).toNat =
      if k = x then r.toNat else if k = 15 then f.toNat else (s.getV k).toNat := by
  rw [getV_flagThenResult, apply_ite BitVec.toNat, apply_ite BitVec.toNat]

/-! ## The operations that write the flag -/

/-- Settles O35: the sum, then the carry over it. -/
theorem addWritesSumThenCarry : Obligations.AddWritesSumThenCarry := by
  intro x y s
  refine ⟨_, rfl, resultThenFlag_sameBut x _ _ s, fun k => ?_⟩
  rw [getV_resultThenFlag_toNat, addResult_toNat, addFlag, flag_toNat]

/-- Settles O36: the comparison, then the difference over it. -/
theorem subtractsWriteFlagThenDifference : Obligations.SubtractsWriteFlagThenDifference := by
  intro x y s
  refine ⟨⟨_, rfl, flagThenResult_sameBut x _ _ s, fun k => ?_⟩,
    ⟨_, rfl, flagThenResult_sameBut x _ _ s, fun k => ?_⟩⟩
  · rw [getV_flagThenResult_toNat, subResult_toNat, subFlag, flag_toNat]
  · rw [getV_flagThenResult_toNat, subResult_toNat, subFlag, flag_toNat]

/-- Settles O37: the bit shifted out, then the shifted value over it. -/
theorem shiftsWriteFlagThenResult : Obligations.ShiftsWriteFlagThenResult := by
  intro x y s
  refine ⟨⟨_, rfl, flagThenResult_sameBut x _ _ s, fun k => ?_⟩,
    ⟨_, rfl, flagThenResult_sameBut x _ _ s, fun k => ?_⟩⟩
  · rw [getV_flagThenResult_toNat, shrResult_toNat, shrFlag_toNat]
  · rw [getV_flagThenResult_toNat, shlResult_toNat, shlFlag_toNat]

/-! ## Random-and -/

theorem exec_randomAnd (x : Reg) (kk : Byte) (s : State) :
    exec (.randomAnd x kk) s = .next ((consumeRnd s).setV x (rndByte s &&& kk)) := rfl

theorem consumeRnd_of_cons {s : State} {b : Byte} {rest : List Byte} (h : s.rndIn = b :: rest) :
    rndByte s = b ∧ (consumeRnd s).rndIn = rest ∧ (consumeRnd s).rndCount = s.rndCount := by
  simp only [rndByte, consumeRnd, h, and_self]

theorem consumeRnd_of_nil {s : State} (h : s.rndIn = []) : rndByte s = Config.freeRnd s.rndCount ∧
    (consumeRnd s).rndIn = [] ∧ (consumeRnd s).rndCount = s.rndCount + 1 := by
  simp only [rndByte, consumeRnd, h, and_self]

/-- Settles O38: one draw and one register write, of the drawn byte under the immediate's mask. -/
theorem randomAndMasksTheDrawnByte : Obligations.RandomAndMasksTheDrawnByte := by
  intro x kk s
  refine ⟨_, exec_randomAnd x kk s, drawRnd_sameBut s x _, drawRnd_regsSameBut x _ s,
    fun j hj => ?_, fun b rest h => ?_, fun h => ?_⟩
  · rw [getV_setV_self, BitVec.getLsbD_and, hj, Bool.and_false]
  · obtain ⟨drawn, queue, count⟩ := consumeRnd_of_cons h
    exact ⟨by rw [getV_setV_self, drawn], queue, count⟩
  · obtain ⟨drawn, queue, count⟩ := consumeRnd_of_nil h
    exact ⟨by rw [getV_setV_self, drawn], queue, count⟩

/-- Over one Step with its byte, random-and is the register write alone: the queue that held the
byte is put back as it was. -/
theorem stepWith_randomAnd {x : Reg} {kk : Byte} {s : State} (h : Runs s (.randomAnd x kk))
    (b : Byte) : stepWith b s = .next (tickTimers (s.advancePc.setV x (b &&& kk))) := by
  have h' : Runs { s with rndIn := [b] } (.randomAnd x kk) := h
  exact stepWith_of_step (step_of_runs_effect h' rfl)

/-- A Step that writes a register moves `PC` and the timers beside it. -/
theorem tickTimers_setV_sameBut (s : State) (x : Reg) (b : Byte) :
    SameBut [.v, .pc, .dt, .st] s (tickTimers (s.advancePc.setV x b)) := by
  simp [sameBut_iff]

/-- Settles O39: over the Step random-and is one register write, of the byte of the Step. -/
theorem randomAndUsesTheByteOfTheStep : Obligations.RandomAndUsesTheByteOfTheStep :=
  fun x kk b s runs =>
    ⟨_, stepWith_randomAnd runs b, getV_setV_self s.advancePc x (b &&& kk), rfl,
      tickTimers_setV_sameBut s x _, setV_regsSameBut s.advancePc x _⟩

end Sys2Proof.Proofs
end

section
/-! PROOF. Index register, keys and timers (43_index_memory.md R141, R142; 45_input_timers.md R160
to R165). -/

namespace Sys2Proof.Proofs

open Sys2Proof.Machine Sys2Proof.Safety

/-- Settles O41: add-to-index is one write of `I`, of the sum in 16 bits. -/
theorem addToIndexWraps : Obligations.AddToIndexWraps := by
  intro x s
  refine ⟨s.setIndex (s.index + byteToWord (s.getV x)), rfl, ?_, setIndex_sameBut s _⟩
  rw [State.setIndex_index, BitVec.toNat_add, byteToWord_toNat]

/-! ## Operations on a digit -/

theorem glyphAddress_toNat (d : Reg) : (glyphAddress d).toNat = 5 * d.val := by
  have := d.isLt
  rw [glyphAddress, BitVec.toNat_ofNat]
  omega

/-- Settles O42: a digit's glyph address is one write of `I`; above 15 the table has the fault. -/
theorem loadGlyphAddressIsFiveTimesDigit : Obligations.LoadGlyphAddressIsFiveTimesDigit := by
  refine fun x s => ⟨fun digit => ?_, fun above => exec_faults (if_pos above)⟩
  refine ⟨_, exec_of_faultOf_none (if_neg (Nat.not_lt.2 digit)), ?_, setIndex_sameBut s _⟩
  have digit_kept : (Fin.ofNat 16 (s.getV x).toNat).val = (s.getV x).toNat :=
    Nat.mod_eq_of_lt (Nat.lt_succ_of_le digit)
  rw [effect, State.setIndex_index, glyphAddress_toNat, digit_kept]

/-- Settles O50: with a key index in the register each key skip is one conditional write of `PC`;
above 15 the table has the fault of both. -/
theorem keySkips : Obligations.KeySkips := by
  intro x s
  refine ⟨fun k named => ?_, fun above i hi => ?_⟩
  · have within : ¬ 15 < (s.getV x).toNat := by
      have := k.isLt
      omega
    have key_named : Fin.ofNat 16 (s.getV x).toNat = k := by
      rw [named]
      exact Fin.ext (Nat.mod_eq_of_lt k.isLt)
    refine ⟨⟨_, exec_of_faultOf_none (if_neg within), skipIf_sameBut s _, ?_⟩,
      ⟨_, exec_of_faultOf_none (if_neg within), skipIf_sameBut s _, ?_⟩⟩
    · rw [effect, key_named, skipIf_eq, State.setPc_pc, State.keyDown]
    · rw [effect, key_named, skipIf_eq, State.setPc_pc, State.keyDown]
      cases s.keys[k.val] with
      | false | true => rfl
  · simp only [List.mem_cons, List.not_mem_nil, or_false] at hi
    rcases hi with rfl | rfl
    · exact exec_faults (if_pos above)
    · exact exec_faults (if_pos above)

/-! ## Timers -/

/-- Settles O52: get-delay-timer is one register write of `DT`, which the Step counts after it. -/
theorem getDelayTimerReadsBeforeTheCount : Obligations.GetDelayTimerReadsBeforeTheCount := by
  intro x s
  refine ⟨⟨_, rfl, setV_sameBut s x _, setV_regsSameBut s x _, getV_setV_self s x _⟩,
    fun runs => ?_⟩
  exact ⟨_, step_of_runs_effect runs rfl, getV_setV_self s.advancePc x s.dt, countDown_toNat s.dt,
    setV_regsSameBut s.advancePc x _, tickTimers_setV_sameBut s x _⟩

/-- The audio level of a timer that has counted once (47_host_interface.md R174). -/
theorem audioOut_iff {s : State} {n : Nat} (h : s.st.toNat = n - 1) :
    audioOut s = true ↔ 1 < n := by
  have st_zero : s.st = 0 ↔ s.st.toNat = 0 := BitVec.toNat_inj.symm
  rw [audioOut, decide_eq_true_iff, ne_eq, st_zero]
  omega

/-- Settles O53: each timer write is one write of its timer, which the Step counts after it. -/
theorem timerWritesCountInTheSameStep : Obligations.TimerWritesCountInTheSameStep := by
  intro x s
  refine ⟨⟨_, rfl, setDt_sameBut s _, rfl⟩, ⟨_, rfl, setSt_sameBut s _, rfl⟩, fun runs => ?_,
    fun runs => ?_⟩
  · refine ⟨_, step_of_runs_effect runs rfl, countDown_toNat (s.getV x), ?_⟩
    simp [sameBut_iff, effect]
  · have counted := countDown_toNat (s.getV x)
    refine ⟨_, step_of_runs_effect runs rfl, counted, ?_, audioOut_iff counted⟩
    simp [sameBut_iff, effect]

end Sys2Proof.Proofs
end

section
/-! PROOF. Drawing (44_display.md R151, R154): the loops as one exclusive OR per grid pixel, the
collision, and the fault of a row above memory. -/

namespace Sys2Proof.Proofs

open Sys2Proof.Machine Sys2Proof.Safety

/-! ## The loops against the sprite as a set of pixels -/

/-- What the clipped loops cover is, on the grid, the sprite of the spec. -/
theorem coveredBit_eq_spriteBit (x y : Reg) (n : Nibble) (s : State) {r c : Nat} (hr : r < 32)
    (hc : c < 64) :
    coveredBit s.mem (dataAddress s 0) (spriteColumn x s) (spriteRow y s)
      (spriteRows (spriteRow y s) n) (spriteCols (spriteColumn x s)) r c =
      spriteBit s x y n r c := by
  have clipped : (spriteRow y s ≤ r ∧ r < spriteRow y s + spriteRows (spriteRow y s) n) ∧
      (spriteColumn x s ≤ c ∧ c < spriteColumn x s + spriteCols (spriteColumn x s)) ↔
      spriteRow y s ≤ r ∧ r < spriteRow y s + n.toNat ∧ spriteColumn x s ≤ c ∧
        c < spriteColumn x s + 8 := by
    unfold spriteRows spriteCols
    omega
  rw [coveredBit, rowBit, ← Bool.and_assoc, ← Bool.decide_and, decide_eq_decide.2 clipped]
  rfl

theorem lt_grid_of_coveredBit {x y : Reg} {n : Nibble} {s : State} {r c : Nat}
    (h : coveredBit s.mem (dataAddress s 0) (spriteColumn x s) (spriteRow y s)
      (spriteRows (spriteRow y s) n) (spriteCols (spriteColumn x s)) r c = true) :
    r < 32 ∧ c < 64 := by
  simp only [coveredBit, rowBit, Bool.and_eq_true, decide_eq_true_eq] at h
  obtain ⟨row, column, -⟩ := h
  unfold spriteRows at row
  unfold spriteCols at column
  omega

/-- The drawing, pixel by pixel. -/
theorem drawnSprite_law (x y : Reg) (n : Nibble) (s : State) :
    (∀ (r : Fin 32) (c : Fin 64), pixel (drawnSprite x y n s).1 r c =
      (pixel s.fb r c ^^ spriteBit s x y n r c)) ∧
    ((drawnSprite x y n s).2 = true ↔ ∃ (r : Fin 32) (c : Fin 64),
      pixel s.fb r c = true ∧ spriteBit s x y n r c = true) := by
  have rows_on_grid : spriteRow y s + spriteRows (spriteRow y s) n ≤ 32 := by
    unfold spriteRow spriteRows
    omega
  have columns_on_grid : spriteColumn x s + spriteCols (spriteColumn x s) ≤ 64 := by
    unfold spriteColumn spriteCols
    omega
  obtain ⟨pixels, hit⟩ :=
    drawRows_law s.mem (dataAddress s 0) _ _ _ _ s.fb rows_on_grid columns_on_grid
  refine ⟨fun r c => ?_, hit.trans ⟨?_, ?_⟩⟩
  · rw [← coveredBit_eq_spriteBit x y n s r.isLt c.isLt]
    exact pixels r c
  · rintro ⟨r, c, covered, on⟩
    obtain ⟨hr, hc⟩ := lt_grid_of_coveredBit covered
    exact ⟨⟨r, hr⟩, ⟨c, hc⟩, on, (coveredBit_eq_spriteBit x y n s hr hc).symm.trans covered⟩
  · rintro ⟨r, c, on, bit⟩
    exact ⟨r, c, (coveredBit_eq_spriteBit x y n s r.isLt c.isLt).trans bit, on⟩

/-! ## The draw -/

theorem exec_drawSprite_of_readable {x y : Reg} {n : Nibble} {s : State}
    (h : SpriteReadable s y n) : exec (.drawSprite x y n) s = .next (drawAndFlag x y n s) := by
  refine exec_of_faultOf_none (if_neg ?_)
  unfold SpriteReadable at h
  omega

theorem drawAndFlag_fb (x y : Reg) (n : Nibble) (s : State) (r : Fin 32) (c : Fin 64) :
    (drawAndFlag x y n s).fb[r.val][c.val] = (s.fb[r.val][c.val] ^^ spriteBit s x y n r c) := by
  rw [getElem_eq_pixel, getElem_eq_pixel]
  exact (drawnSprite_law x y n s).1 r c

theorem drawAndFlag_VF_one {x y : Reg} {n : Nibble} {s : State}
    (h : ∃ (r : Fin 32) (c : Fin 64), s.fb[r.val][c.val] = true ∧ spriteBit s x y n r c = true) :
    (drawAndFlag x y n s).getV 15 = 1 := by
  simp only [getElem_eq_pixel] at h
  have hit : (drawnSprite x y n s).2 = true := (drawnSprite_law x y n s).2.2 h
  simp [drawAndFlag, hit, flag]

theorem drawAndFlag_VF_zero {x y : Reg} {n : Nibble} {s : State}
    (h : ∀ (r : Fin 32) (c : Fin 64), s.fb[r.val][c.val] = true → spriteBit s x y n r c = false) :
    (drawAndFlag x y n s).getV 15 = 0 := by
  have no_hit : (drawnSprite x y n s).2 = false := by
    rw [← Bool.not_eq_true, (drawnSprite_law x y n s).2]
    rintro ⟨r, c, on, bit⟩
    exact absurd (bit.symm.trans (h r c ((getElem_eq_pixel s.fb r c).trans on))) (by decide)
  simp [drawAndFlag, no_hit, flag]

/-- Settles O47: the loops are one exclusive OR per pixel of the sprite, and the hit is their
collision. -/
theorem drawSpriteXorsThePixels : Obligations.DrawSpriteXorsThePixels :=
  fun x y n s readable =>
    ⟨_, exec_drawSprite_of_readable readable, drawAndFlag_sameBut x y n s,
      drawAndFlag_regsSameBut x y n s, drawAndFlag_fb x y n s, drawAndFlag_VF_one,
      drawAndFlag_VF_zero⟩

/-- Settles O48: the table has the fault on exactly the complement of the readable sprites. -/
theorem drawSpriteOutsideMemoryFaults : Obligations.DrawSpriteOutsideMemoryFaults := by
  intro x y n s unreadable
  refine exec_faults (if_pos ?_)
  unfold SpriteReadable at unreadable
  omega

/-! ## Drawing twice -/

/-- The sprite is read from memory at `I` and placed by the two coordinates, none of which a draw
writes but `VF`. -/
theorem spriteBit_congr {x y : Reg} {n : Nibble} {s t : State}
    (hx : (t.getV x).toNat % 64 = (s.getV x).toNat % 64)
    (hy : (t.getV y).toNat % 32 = (s.getV y).toNat % 32) (index : t.index = s.index)
    (mem : t.mem = s.mem) (r c : Nat) : spriteBit t x y n r c = spriteBit s x y n r c := by
  simp only [spriteBit, State.readByte, hx, hy, index, mem]

/-- Settles O49: the second draw is the same exclusive OR, which undoes the first, and it hits what
the first turned on. -/
theorem drawingTwiceRestoresTheDisplay : Obligations.DrawingTwiceRestoresTheDisplay := by
  intro x y n s t readable drawn hx hy
  cases drawn.symm.trans (exec_drawSprite_of_readable readable)
  have readable' : SpriteReadable (drawAndFlag x y n s) y n := by
    unfold SpriteReadable at readable ⊢
    rw [hy]
    exact readable
  have bit_same (r c : Nat) : spriteBit (drawAndFlag x y n s) x y n r c = spriteBit s x y n r c :=
    spriteBit_congr hx hy rfl rfl r c
  refine ⟨_, exec_drawSprite_of_readable readable', ?_, fun h => ?_, fun h => ?_⟩
  · refine Vector.ext fun r hr => Vector.ext fun c hc => ?_
    have second := drawAndFlag_fb x y n (drawAndFlag x y n s) ⟨r, hr⟩ ⟨c, hc⟩
    have first := drawAndFlag_fb x y n s ⟨r, hr⟩ ⟨c, hc⟩
    rw [bit_same, first, Bool.xor_assoc, Bool.xor_self, Bool.xor_false] at second
    exact second
  · obtain ⟨r, c, off, bit⟩ := h
    refine drawAndFlag_VF_one ⟨r, c, ?_, (bit_same r c).trans bit⟩
    rw [drawAndFlag_fb, off, bit]
    rfl
  · refine drawAndFlag_VF_zero fun r c on => ?_
    rw [drawAndFlag_fb] at on
    rw [bit_same]
    cases bit : spriteBit s x y n r c with
    | false => rfl
    | true => simp [bit, h r c bit] at on

end Sys2Proof.Proofs
end
